-- ==== Sys2Proof/Word.lean ====
section
/-! DEFINITION. The two machine words of the block: the 32-bit scalar register (R37) and the byte (R11). -/

namespace Sys2Proof

/-- The value of a host-visible scalar register: 32 bits (`REG_W`, R8). -/
abbrev Word := BitVec 32

/-- A byte: 8 bits, bit 0 the least significant (R11). -/
abbrev Byte := BitVec 8

end Sys2Proof
end

