-- ==== Sys2Proof/Config.lean ====
section
/-! DEFINITION. What an implementation fixes (R8, R53), the constants every implementation shares (R9, R32), and the
free values: what a host read of an `undef` cell returns (R21). -/

namespace Sys2Proof.Config

/-- The two views R187 allows of a running command. -/
inductive View where
  /-- The `CMD` write is one indivisible transition to the state in which the command has ended. -/
  | atomic
  /-- The `CMD` write creates the cursor and every later step of the engine moves one bit. -/
  | stepwise
  deriving DecidableEq, Repr

/-- What a command does with a scalar operand register that the spec marks `undef` (log 1). -/
inductive UndefRegs where
  /-- It uses the value the register holds (the model's reset value). DESIGN CHOICE, unsafe, log 1. -/
  | useHeld
  /-- It is refused, as R21 and U1 say. -/
  | refuse
  deriving DecidableEq, Repr

/-- The parameters of one block (R8) and the two modelling choices above. No step changes them. -/
structure Params where
  /-- `NUMPIX_MAX`: the channel memory has `4 × numpixMax` bytes (R8). -/
  numpixMax : Nat
  /-- `PAY_MAX`: bytes of each payload buffer (R8). -/
  payMax : Nat
  /-- Which view of R187 `step` takes (log 5). -/
  view : View
  /-- What a command does with an `undef` operand register (log 1). -/
  undefRegs : UndefRegs
  deriving DecidableEq, Repr

/-- The parameters the reset state carries: the largest channel memory R8 allows and the smallest payload buffers that
go with it. DESIGN CHOICE, log 4. -/
def largest : Params :=
  { numpixMax := 2 ^ 29 - 1, payMax := 4 * (2 ^ 29 - 1), view := .atomic, undefRegs := .useHeld }

/-- `LANES`: channels per pixel (R8). -/
def lanes : Nat := 4

/-- `FN_MAX`: the largest filename length (R8). -/
def fnMax : Nat := 255

/-- `MAGIC_LEN` (R8). -/
def magicLen : Nat := 13

/-- Serialized bytes stored one bit per channel (R9). -/
def preambleBytes : Nat := 14

/-- Channels those bytes occupy: 14 × 8 (R9). -/
def preambleChannels : Nat := 112

/-- The hardwired constant `MAGIC` (R32). PRESUMED by the spec itself (G1): ASCII, log 9. -/
def magic : List Byte :=
  [0x73, 0x74, 0x65, 0x67, 0x61, 0x6E, 0x6F, 0x67, 0x72, 0x61, 0x70, 0x68, 0x79]

/-- The arbitrary word a host read of an `undef` register returns, a fresh one at each use (R21, log 3). -/
opaque freeWord : Nat → Word

/-- The arbitrary byte whose bits stand in for the `undef` bits of a byte the host reads (R21, log 3). -/
opaque freeByte : Nat → Byte

end Sys2Proof.Config
end

