-- ==== Sys2Proof/Syntax.lean ====
section
/-! DEFINITION. The instructions of the block: its three commands (R1, R101, opcode_table.json). A command has no operands in
its word (R100): it reads the input registers. -/

namespace Sys2Proof

/-- One constructor per row of spec/opcode_table.json. -/
inductive Instr where
  /-- `CAP`, word 1: `capacityBytes(numPixels, bitDepth, filenameLength)` (R120). -/
  | cap
  /-- `PACK`, word 2: `pack(payload, stream)` (R130). -/
  | pack
  /-- `UNPACK`, word 3: `unpack(stream)` (R150). -/
  | unpack
  deriving DecidableEq, Repr

end Sys2Proof
end

