-- ==== Sys2Proof/WellFormed.lean ====
section
/-! DEFINITION. The static checks: of an instruction (none is needed: commands take no operands, R100), of a command word
(R100, R102), of the parameters of a block (R8), and of a register number (R38). -/

namespace Sys2Proof

/-- Every command is well formed: it has no operand field that could hold an illegal value (R100). -/
def Instr.wellFormed : Instr → Bool
  | .cap => true
  | .pack => true
  | .unpack => true

/-- A command word that is not reserved: bits [31:4] zero and `OP` one of 1, 2, 3 (R100 to R102). -/
def commandWordOk (w : Word) : Bool :=
  decide (w.toNat / 16 = 0 ∧ 1 ≤ w.toNat % 16 ∧ w.toNat % 16 ≤ 3)

/-- The constraints R8 puts on the parameters. -/
def Config.Params.legal (p : Config.Params) : Bool :=
  decide (p.numpixMax ≤ 2 ^ 29 - 1 ∧ Config.lanes * p.numpixMax ≤ p.payMax)

/-- A register number the table of R37 lists; `0x0B` and above are reserved (R38). -/
def regNumberOk (n : Nat) : Bool := decide (n ≤ 0x0A)

end Sys2Proof
end

