-- ==== Sys2Proof/Decode.lean ====
section
/-! DEFINITION. The command word decoder (R100 to R102), total on every 32-bit word and rejecting by name, and the encoder. A
command word is written to `CMD` as one number: no rule gives it a byte-wise view (R70). -/

namespace Sys2Proof

/-- Why a word is no command (R102). -/
inductive DecodeError where
  /-- A bit of [31:4] is set. -/
  | reservedBits
  /-- Bits [31:4] are zero and `OP` is 0 or 4 to 15. -/
  | reservedOp
  deriving DecidableEq, Repr

/-- Field `OP`, bits [3:0] of a command word (R100). -/
def opField (w : Word) : Nat := w.toNat % 16

/-- The reserved field, bits [31:4] of a command word (R100). -/
def reservedField (w : Word) : Nat := w.toNat / 16

/-- The command map (R101); every other word is reserved (R102). -/
def decode (w : Word) : Except DecodeError Instr :=
  if reservedField w ≠ 0 then .error .reservedBits
  else if opField w = 1 then .ok .cap
  else if opField w = 2 then .ok .pack
  else if opField w = 3 then .ok .unpack
  else .error .reservedOp

/-- The command word of each command (column `word` of R101). -/
def encode : Instr → Word
  | .cap => 0x00000001
  | .pack => 0x00000002
  | .unpack => 0x00000003

/-- The host's numbering of a table row: a command is one 32-bit word, so the row's bits are the word. -/
def decodeTableWord (nbits w : Nat) : Option Instr :=
  match decode (BitVec.ofNat 32 (w % 2 ^ nbits)) with
  | .ok i => some i
  | .error _ => none

/-- `CAP` decodes from its row of R101. -/
theorem decode_cap_word : decode 0x00000001#32 = .ok .cap := by decide

/-- `PACK` decodes from its row of R101. -/
theorem decode_pack_word : decode 0x00000002#32 = .ok .pack := by decide

/-- `UNPACK` decodes from its row of R101. -/
theorem decode_unpack_word : decode 0x00000003#32 = .ok .unpack := by decide

end Sys2Proof
end

