-- ==== Sys2Proof/Machine/State.lean ====
section
/-! DEFINITION. The state of one block (R20), the host's side of it that a deterministic step needs, and the reset state (R52). -/

namespace Sys2Proof.Machine

/-- Memory as the host writes it down: (address, byte) pairs, addresses strictly rising, no entry equal to what an unlisted
address reads as. -/
abbrev Memory := List Host.Cell

/-- What an unlisted address of a `Memory` reads as: all bits 0. In `Space.known` that says: no bit of this byte holds a
defined value (R21, R52). -/
def Memory.unlisted : Byte := 0

/-- One byte space (R60). Which of its bits are defined is state (R21), kept per bit because R137 leaves single bits `undef`.
A bit that is not known is 0 in `bits`. -/
structure Space where
  /-- The values of the defined bits. -/
  bits : Memory
  /-- Bit `p` of byte `a` is set iff bit `p` of cell `a` is defined. -/
  known : Memory
  deriving DecidableEq, Repr

/-- A space with every byte `undef` (R52). -/
def Space.undef : Space := { bits := [], known := [] }

/-- A scalar data register: the word it holds, and whether the spec calls that word defined (R21). -/
structure Reg where
  /-- The word held. -/
  val : Word
  /-- False where the spec says the register is `undef`. -/
  defined : Bool
  deriving DecidableEq, Repr

/-- A register that holds `v`, defined. -/
def Reg.holds (v : Word) : Reg := { val := v, defined := true }

/-- A register marked `undef`. It holds 0 (DESIGN CHOICE, unsafe, log 1). -/
def Reg.undef : Reg := { val := 0, defined := false }

/-- The error kinds (R195, R196), in the order of their codes 1 to 7. -/
inductive ErrKind where
  | capacityExceeded
  | magicMismatch
  | invalidBitDepth
  | truncatedStream
  | filenameTooLong
  /-- Listed by R196; the block never raises it (R202). -/
  | ioFailure
  | illegalCommand
  deriving DecidableEq, Repr

/-- The cursor's phase `PH` (R41). -/
inductive Phase where
  | packPreamble
  | packBody
  | readingMagic
  | readingBitDepth
  | readingFilenameLength
  | readingFilename
  | readingPayloadLength
  | readingPayload
  | capCompute
  deriving DecidableEq, Repr

/-- The cursor (R40 to R49): what the engine does next. It exists exactly while a command runs. -/
structure Cursor where
  /-- `PH`, the phase (R41). -/
  ph : Phase
  /-- `CI`, the channel index (R42). -/
  ci : Nat
  /-- `BP`, the bit position within the channel (R43). -/
  bp : Nat
  /-- `AD`, the active depth (R44). -/
  ad : Nat
  /-- `BC`, the count of completed serialized bytes (R45). -/
  bc : Nat
  /-- `BI`, the bit index within the byte in progress (R46). -/
  bi : Nat
  /-- `SH`, the byte UNPACK is assembling (R47). -/
  sh : Byte
  /-- `MM`, magic mismatch seen (R47). -/
  mm : Bool
  /-- `LD`, the latched bit depth (R48). -/
  ld : Word
  /-- `LN`, the latched filename length (R48). -/
  ln : Word
  /-- `LP`, the latched payload length (R48). -/
  lp : Word
  deriving DecidableEq, Repr

/-- The five byte spaces (R60). -/
inductive SpaceName where
  | ch
  | fni
  | pli
  | fno
  | plo
  deriving DecidableEq, Repr

/-- One line of a host script (R114) or one event from outside the block. -/
inductive HostMove where
  /-- `RD reg` (R180), by register number. -/
  | rd (reg : Nat)
  /-- `WR reg, value` (R181); a write of register 0x00 starts a command (R184). -/
  | wr (reg : Nat) (value : Word)
  /-- `RDM space, addr, n` (R182). -/
  | rdm (space : SpaceName) (addr n : Nat)
  /-- `WRM space, addr, b0 b1 ...` (R183). -/
  | wrm (space : SpaceName) (addr : Nat) (bytes : List Byte)
  /-- `WAIT`: poll `STATUS` until `DONE = 1` (R186). -/
  | wait
  /-- The host makes no move: the engine, if it runs, takes one step (MODEL's own, log 7). -/
  | pause
  /-- The external hardware reset (R225, R227). -/
  | reset
  deriving DecidableEq, Repr

/-- What a host read returned. -/
inductive Reply where
  | word (w : Word)
  | bytes (bs : List Byte)
  deriving DecidableEq, Repr

/-- The whole state. `busy` has no field of its own: `BUSY = 1` exactly while the cursor exists (R34, R40). -/
structure State where
  /-- The parameters of this block; no step changes them (R8, R53). -/
  cfg : Config.Params
  /-- `NUMPIX`, register 0x03 (R31). -/
  numpix : Reg
  /-- `PK_DEPTH`, register 0x04 (R22). -/
  pkDepth : Reg
  /-- `PK_FNLEN`, register 0x05 (R23). -/
  pkFnlen : Reg
  /-- `PK_PLEN`, register 0x06 (R26). -/
  pkPlen : Reg
  /-- `CAPRES`, register 0x07 (R36). -/
  capres : Reg
  /-- `UP_DEPTH`, register 0x08 (R27). -/
  upDepth : Reg
  /-- `UP_FNLEN`, register 0x09 (R28). -/
  upFnlen : Reg
  /-- `UP_PLEN`, register 0x0A (R29). -/
  upPlen : Reg
  /-- `STATUS.DONE` (R34). -/
  done : Bool
  /-- `STATUS.ERR` (R34). -/
  err : Bool
  /-- `STATUS.UPVALID` (R34). -/
  upvalid : Bool
  /-- `ERRCODE` (R35): the kind with which the last command ended; `none` is code 0. -/
  errcode : Option ErrKind
  /-- `CH`, the channel memory (R30). -/
  ch : Space
  /-- `PK_FNAME`, space `FNI` (R24). -/
  fni : Space
  /-- `PK_PAYLOAD`, space `PLI` (R25). -/
  pli : Space
  /-- `UP_FNAME`, space `FNO` (R28). -/
  fno : Space
  /-- `UP_PAYLOAD`, space `PLO` (R29). -/
  plo : Space
  /-- The cursor; `none` while the engine is idle (R40, R49). -/
  cursor : Option Cursor
  /-- MODEL's own (log 6): the host's remaining moves, first move first. -/
  script : List HostMove
  /-- MODEL's own (log 6): what the host's reads have returned, oldest first. -/
  replies : List Reply
  /-- MODEL's own (log 3): which free value the next read of an `undef` cell takes. -/
  fresh : Nat
  deriving DecidableEq, Repr

/-- Why the machine stops with a fault. -/
inductive Fault where
  /-- Raised by the host moves RDM and WRM when the bytes named do not all lie inside the space (R182, R183, U3). Safe: no
  transition is given, as the spec says. -/
  | addressOutsideSpace
  deriving DecidableEq, Repr

/-- Why the model gives no step. -/
inductive Refusal where
  /-- Raised only by an arm of `exec` that has no meaning yet. Safe. -/
  | notModelled (mnemonic : String)
  /-- Raised by a command whose rules read an `undef` cell (R21, U1). Safe. -/
  | undefOperand
  /-- Raised by a command started with `NUMPIX > NUMPIX_MAX` (R31, U2). Safe. -/
  | numpixTooLarge
  /-- Raised by RD and WR of a register number from 0x0B (R38, U3). Safe. -/
  | reservedRegister
  /-- Raised by every host move but RD STATUS and RD ERRCODE while `BUSY = 1`, a second command among them (R185, U4).
  Safe for runs that keep R185. -/
  | hostMoveWhileBusy
  deriving DecidableEq, Repr

/-- The state after reset (R52, R225): flags and `ERRCODE` 0, no cursor, every data register and every byte `undef`.
The parameters are those of log 4; the model's own fields are empty. -/
def State.reset : State where
  cfg := Config.largest
  numpix := Reg.undef
  pkDepth := Reg.undef
  pkFnlen := Reg.undef
  pkPlen := Reg.undef
  capres := Reg.undef
  upDepth := Reg.undef
  upFnlen := Reg.undef
  upPlen := Reg.undef
  done := false
  err := false
  upvalid := false
  errcode := none
  ch := Space.undef
  fni := Space.undef
  pli := Space.undef
  fno := Space.undef
  plo := Space.undef
  cursor := none
  script := []
  replies := []
  fresh := 0

end Sys2Proof.Machine
end

