-- ==== Sys2Proof/Machine/Ops.lean ====
section
/-! DEFINITION. The named operations over memory, byte spaces and registers (20_memory.md), and the two ways a command ends:
`fail`, the block's exception entry (R204), and `complete` (R205). -/

namespace Sys2Proof.Machine

/-! ## Memory in its one canonical form -/

/-- The byte at address `a`. -/
def Memory.read : Memory → Nat → Byte
  | [], _ => Memory.unlisted
  | (b, v) :: m, a => if b = a then v else Memory.read m a

/-- Replace the byte at address `a`; writing what an unlisted address reads as removes the entry. -/
def Memory.write : Memory → Nat → Byte → Memory
  | [], a, v => if v = Memory.unlisted then [] else [(a, v)]
  | (b, w) :: m, a, v =>
    if a < b then (if v = Memory.unlisted then (b, w) :: m else (a, v) :: (b, w) :: m)
    else if a = b then (if v = Memory.unlisted then m else (a, v) :: m)
    else (b, w) :: Memory.write m a v

/-- Clear in every byte the bits that are not set in `keep` of its address. -/
def Memory.mask (keep : Nat → Byte) : Memory → Memory
  | [] => []
  | (a, v) :: m =>
    if v &&& keep a = Memory.unlisted then Memory.mask keep m
    else (a, v &&& keep a) :: Memory.mask keep m

/-- Canonical from address `lo` up: addresses strictly rising, none below `lo`, no entry equal to `unlisted`. -/
def Memory.wfFrom : Nat → Memory → Bool
  | _, [] => true
  | lo, (a, v) :: m => decide (lo ≤ a) && decide (v ≠ Memory.unlisted) && Memory.wfFrom (a + 1) m

/-- The canonical form of a memory. -/
def Memory.wf (m : Memory) : Bool := Memory.wfFrom 0 m

/-! ## Byte spaces: bytes and single bits, defined or `undef` -/

/-- Bit `p` of cell `a`; `none` where it is `undef` (R21, R63). -/
def Space.readBit (sp : Space) (a p : Nat) : Option Bool :=
  if (sp.known.read a).getLsbD p then some ((sp.bits.read a).getLsbD p) else none

/-- `byte` with bit `p` made `v`, its other bits kept (R64). -/
def setBit (byte : Byte) (p : Nat) (v : Bool) : Byte :=
  (byte &&& ~~~(1#8 <<< p)) ||| (if v then 1#8 <<< p else 0#8)

/-- `WriteBit(a, p, v)` (R64): bit `p` becomes the defined value `v`, the other bits of the cell keep what they held,
`undef` included (R21). -/
def Space.writeBit (sp : Space) (a p : Nat) (v : Bool) : Space where
  bits := sp.bits.write a (setBit (sp.bits.read a) p v)
  known := sp.known.write a (setBit (sp.known.read a) p true)

/-- `MemRead` (R66) of a byte: `none` where any of its bits is `undef` (R21). -/
def Space.readByte (sp : Space) (a : Nat) : Option Byte :=
  if sp.known.read a = 0xFF#8 then some (sp.bits.read a) else none

/-- `MemWrite` (R66), and a host write of one byte (R183): the cell becomes defined. -/
def Space.writeByte (sp : Space) (a : Nat) (v : Byte) : Space where
  bits := sp.bits.write a v
  known := sp.known.write a 0xFF#8

/-- Write consecutive bytes from address `a` (R183). -/
def Space.writeBytes (sp : Space) (a : Nat) : List Byte → Space
  | [] => sp
  | b :: bs => (sp.writeByte a b).writeBytes (a + 1) bs

/-- What a host read of cell `a` returns: its defined bits, and arbitrary bits (`free`) where it is `undef` (R21). -/
def Space.hostByte (sp : Space) (free : Byte) (a : Nat) : Byte :=
  (sp.bits.read a &&& sp.known.read a) ||| (free &&& ~~~(sp.known.read a))

/-- `n` consecutive host reads from address `a`; the free values are taken from number `k` on (R182). -/
def Space.hostBytes (sp : Space) (k a : Nat) : Nat → List Byte
  | 0 => []
  | n + 1 => sp.hostByte (Config.freeByte k) a :: sp.hostBytes (k + 1) (a + 1) n

/-- The bits of channel `i` that survive `CapacityExceeded` on a stream of `len` channels at depth `d` (R137): `[7:a]`, with
`a = 1` for the preamble channels and `a = d` above; a channel outside the stream keeps all. -/
def survivors (len d i : Nat) : Byte :=
  if len ≤ i then 0xFF#8
  else if i < Config.preambleChannels then 0xFF#8 <<< 1
  else 0xFF#8 <<< d

/-- The channel memory after `CapacityExceeded` (R137): low bits `undef`, high bits kept. -/
def Space.spoil (sp : Space) (len d : Nat) : Space where
  bits := sp.bits.mask (survivors len d)
  known := sp.known.mask (survivors len d)

/-- The canonical form of a space: both memories canonical, and a bit that is not known is 0 in `bits`. -/
def Space.wf (sp : Space) : Bool :=
  sp.bits.wf && sp.known.wf && sp.bits.all (fun c => decide (c.2 &&& ~~~(sp.known.read c.1) = 0#8))

/-! ## Spaces and registers of the state -/

/-- The number of cells of a space (R60). -/
def spaceSize (cfg : Config.Params) : SpaceName → Nat
  | .ch => Config.lanes * cfg.numpixMax
  | .fni => Config.fnMax
  | .pli => cfg.payMax
  | .fno => Config.fnMax
  | .plo => cfg.payMax

/-- The named space of a state. -/
def State.space (s : State) : SpaceName → Space
  | .ch => s.ch
  | .fni => s.fni
  | .pli => s.pli
  | .fno => s.fno
  | .plo => s.plo

/-- A host write of bytes into a named space: `FNO` and `PLO` are not host-writable and the write is ignored (R38, R183). -/
def State.hostWriteBytes (s : State) (name : SpaceName) (a : Nat) (bs : List Byte) : State :=
  match name with
  | .ch => { s with ch := s.ch.writeBytes a bs }
  | .fni => { s with fni := s.fni.writeBytes a bs }
  | .pli => { s with pli := s.pli.writeBytes a bs }
  | .fno => s
  | .plo => s

/-- The value a command gets from a scalar operand register: `none` where its rules read an `undef` register (R21) and the
block's parameters say that this is refused (log 1). -/
def Reg.operand (r : Reg) (cfg : Config.Params) : Option Word :=
  if r.defined then some r.val
  else match cfg.undefRegs with
    | .useHeld => some r.val
    | .refuse => none

/-- What a host read of a register returns: an arbitrary word where it is `undef` (R21, R180). -/
def Reg.hostValue (r : Reg) (free : Word) : Word := if r.defined then r.val else free

/-! ## The start and the end of a command -/

/-- `STATUS.BUSY`: a command is executing, which is to say that the cursor exists (R34, R40). -/
def State.busy (s : State) : Bool := s.cursor.isSome

/-- The first thing every command does: `DONE`, `ERR` and `ERRCODE` are cleared (R184); `BUSY` is 1 from the moment the
cursor exists. -/
def State.started (s : State) : State := { s with done := false, err := false, errcode := none }

/-- `fail E` (R204), the block's one exception entry: code and `ERR` and `DONE` set, the cursor destroyed. -/
def State.fail (s : State) (e : ErrKind) : State :=
  { s with errcode := some e, err := true, done := true, cursor := none }

/-- `complete` (R205). -/
def State.complete (s : State) : State :=
  { s with errcode := none, err := false, done := true, cursor := none }

/-- The output record UPO made `undef` and `UPVALID` cleared (R151). -/
def State.dropOutput (s : State) : State :=
  { s with
    upvalid := false, upDepth := Reg.undef, upFnlen := Reg.undef, upPlen := Reg.undef,
    fno := Space.undef, plo := Space.undef }

/-- True where a command reads a `NUMPIX` above `NUMPIX_MAX` (R31). -/
def State.numpixOver (s : State) : Bool :=
  match s.numpix.operand s.cfg with
  | some v => decide (s.cfg.numpixMax < v.toNat)
  | none => false

/-- Start a command (R184): refused while another runs (R185) and with `NUMPIX > NUMPIX_MAX` (R31); otherwise `body` runs from
the state whose flags the start has cleared. -/
def State.begin (s : State) (body : State → Host.Outcome State Fault Refusal) : Host.Outcome State Fault Refusal :=
  if s.busy then .refused .hostMoveWhileBusy
  else if s.numpixOver then .refused .numpixTooLarge
  else body s.started

/-- Run `k` on the operand a register holds; refused where the register is `undef` and that is refused (R21). -/
def State.withOperand (s : State) (r : Reg) (k : Word → Host.Outcome State Fault Refusal) :
    Host.Outcome State Fault Refusal :=
  match r.operand s.cfg with
  | some v => k v
  | none => .refused .undefOperand

end Sys2Proof.Machine
end

