-- ==== Sys2Proof/Machine/Operands.lean ====
section
/-! DEFINITION. The operand forms: lengths and byte order (R12, R61), where a serialized bit stands (R76, R77), the serialized
bytes PACK emits (R93), and the bits and bytes UNPACK reads (R168). -/

namespace Sys2Proof.Machine

/-- `ceil(a / b)` for `b > 0` (R10). -/
def ceilDiv (a b : Nat) : Nat := (a + b - 1) / b

/-- `LE32(v)` (R12, R69). -/
def le32 (v : Word) : List Byte :=
  [v.extractLsb' 0 8, v.extractLsb' 8 8, v.extractLsb' 16 8, v.extractLsb' 24 8]

/-- `UnLE32(b0, b1, b2, b3)` (R12, R104). -/
def unLe32 (b0 b1 b2 b3 : Byte) : Word :=
  BitVec.ofNat 32 (b0.toNat + 256 * b1.toNat + 65536 * b2.toNat + 16777216 * b3.toNat)

/-- `Len()` for a stream of `numpix` pixels (R61). -/
def streamLen (numpix : Word) : Nat := Config.lanes * numpix.toNat

/-- `Place(j, d)`: channel and bit position of serialized bit `j` (R76). -/
def place (j d : Nat) : Nat × Nat :=
  if j < Config.preambleChannels then (j, 0)
  else (Config.preambleChannels + (j - Config.preambleChannels) / d, (j - Config.preambleChannels) % d)

/-- `Used(d, R)`: channels a payload of `r` body bytes occupies (R77). -/
def used (d r : Nat) : Nat := Config.preambleChannels + ceilDiv (8 * r) d

/-- `R = 5 + N + P`: serialized bytes written at depth `d` (R14). -/
def bodyBytes (n p : Nat) : Nat := 5 + n + p

/-- `T = 19 + N + P`: total serialized bytes (R14, R92). -/
def totalBytes (n p : Nat) : Nat := 19 + n + p

/-- The bits a stream of `len` channels holds when its body is read at depth `d` (R171). -/
def streamBits (len d : Nat) : Nat :=
  if len ≤ Config.preambleChannels then len
  else Config.preambleChannels + (len - Config.preambleChannels) * d

/-- `Ser(k)`, the byte at serialized offset `k` (R93); `none` where it is an `undef` byte of the input record. -/
def ser (fni pli : Space) (d n p : Word) (k : Nat) : Option Byte :=
  if k ≤ 12 then some (Config.magic.getD k 0)
  else if k = 13 then some (d.setWidth 8)
  else if k = 14 then some (n.setWidth 8)
  else if k ≤ 14 + n.toNat then fni.readByte (k - 15)
  else if k ≤ 18 + n.toNat then some ((p >>> (8 * (k - 15 - n.toNat))).setWidth 8)
  else pli.readByte (k - 19 - n.toNat)

/-- Serialized bit `j` (R67): `Ser(j div 8)[j mod 8]`. -/
def serBit (fni pli : Space) (d n p : Word) (j : Nat) : Option Bool :=
  (ser fni pli d n p (j / 8)).map (fun b => b.getLsbD (j % 8))

/-- Serialized bit `j` as it stands in the stream at depth `d`; `none` where it is `undef` (R63, R76). -/
def streamBit (ch : Space) (d j : Nat) : Option Bool := ch.readBit (place j d).1 (place j d).2

/-- The `n` serialized bits from bit `j` on, the first in bit 0 (R67, R104); `none` where one is `undef`. -/
def gatherBits (ch : Space) (d j : Nat) : Nat → Option Byte
  | 0 => some 0
  | n + 1 =>
    match gatherBits ch d j n, streamBit ch d (j + n) with
    | some acc, some v => some (setBit acc n v)
    | _, _ => none

/-- `Byte(k)` at depth `d` (R168). -/
def streamByte (ch : Space) (d k : Nat) : Option Byte := gatherBits ch d (8 * k) 8

/-- The `n` serialized bytes from offset `k` on; `none` where a bit of them is `undef`. -/
def streamBytes (ch : Space) (d k : Nat) : Nat → Option (List Byte)
  | 0 => some []
  | n + 1 =>
    match streamByte ch d k, streamBytes ch d (k + 1) n with
    | some b, some bs => some (b :: bs)
    | _, _ => none

/-- Are the `n` serialized bits from bit `j` on all defined in the stream? -/
def bitsKnown (ch : Space) (d j : Nat) : Nat → Bool
  | 0 => true
  | n + 1 => (streamBit ch d j).isSome && bitsKnown ch d (j + 1) n

/-- `capacityBytes(numPixels, d, N)` over the integers, the division rounding toward minus infinity (R121, R10). -/
def capacityBytes (numpix d n : Nat) : Int :=
  Int.fdiv ((4 * (numpix : Int) - 112) * (d : Int)) 8 - (1 + (n : Int) + 4)

end Sys2Proof.Machine
end

