-- ==== Sys2Proof/Machine/Cap.lean ====
section
/-! DEFINITION. The command CAP (40_capacity.md). -/

namespace Sys2Proof.Machine

/-- A CAP that ends with error kind `e`: `CAPRES` is `undef` (R120, R122). -/
def State.capFail (s : State) (e : ErrKind) : State := { s with capres := Reg.undef }.fail e

/-- The phase `CapCompute` (R120): the operand checks in the order of R122, then the formula of R121, stored as a 32-bit
two's-complement number. R120 reads its operands together before the checks; that an operand register behind a failed check is
not come to, so that its being `undef` refuses nothing, is the model's own (DESIGN CHOICE, log 22). -/
def capCompute (s : State) : Host.Outcome State Fault Refusal :=
  s.withOperand s.pkFnlen fun n =>
    if Config.fnMax < n.toNat then .next (s.capFail .filenameTooLong)
    else s.withOperand s.pkDepth fun d =>
      if d.toNat < 1 ∨ 8 < d.toNat then .next (s.capFail .invalidBitDepth)
      else s.withOperand s.numpix fun np =>
        .next { s with capres := Reg.holds (BitVec.ofInt 32 (capacityBytes np.toNat d.toNat n.toNat)) }.complete

/-- CAP as one transition (R120, R187). -/
def execCap (s : State) : Host.Outcome State Fault Refusal := s.begin capCompute

end Sys2Proof.Machine
end

