-- ==== Sys2Proof/Machine/Pack.lean ====
section
/-! DEFINITION. The command PACK (41_pack.md) in its closed form (R138, R139) and its one-bit step (R135). R145 says they agree;
Machine/Engine.lean runs the steps. -/

namespace Sys2Proof.Machine

/-- The operands PACK latches and the two checks it makes before it touches `CH` (R130 to R132, R208); `body` gets `LD`, `LN`,
`LP` and `NUMPIX`. R130 latches them together before the checks; that an operand register behind a failed check is not come to, so
that its being `undef` refuses nothing, is the model's own (DESIGN CHOICE, log 22). -/
def packChecked (s : State) (body : Word → Word → Word → Word → Host.Outcome State Fault Refusal) :
    Host.Outcome State Fault Refusal :=
  s.withOperand s.pkFnlen fun n =>
    if Config.fnMax < n.toNat then .next (s.fail .filenameTooLong)
    else s.withOperand s.pkDepth fun d =>
      if d.toNat < 1 ∨ 8 < d.toNat then .next (s.fail .invalidBitDepth)
      else s.withOperand s.pkPlen fun p => s.withOperand s.numpix fun np => body d n p np

/-- Does the stream of `len` channels hold the whole sequence (R138)? -/
def packFits (len : Nat) (d n p : Word) : Bool :=
  decide (used d.toNat (bodyBytes n.toNat p.toNat) ≤ len)

/-- Write the `count` serialized bits from bit `j` on to their places (R139); `none` where one of them comes from an `undef`
byte of the input record (R21). -/
def packBits (fni pli : Space) (d n p : Word) : Nat → Nat → Space → Option Space
  | 0, _, ch => some ch
  | count + 1, j, ch =>
    match serBit fni pli d n p j with
    | some v => packBits fni pli d n p count (j + 1) (ch.writeBit (place j d.toNat).1 (place j d.toNat).2 v)
    | none => none

/-- The whole serialized sequence written into the stream (R139). -/
def packStream (s : State) (d n p : Word) : Option Space :=
  packBits s.fni s.pli d n p (8 * totalBytes n.toNat p.toNat) 0 s.ch

/-- A PACK that ends with `CapacityExceeded` (R137): the low bits of the stream are `undef`, its high bits are kept. -/
def State.packOverflow (s : State) (len d : Nat) : State := { s with ch := s.ch.spoil len d }.fail .capacityExceeded

/-- PACK after its checks, in closed form: `CapacityExceeded` exactly when the sequence does not fit (R138; found before the
first write, which R141 allows), otherwise the end state of R139. -/
def packWrite (s : State) (d n p np : Word) : Host.Outcome State Fault Refusal :=
  if packFits (streamLen np) d n p then
    match packStream s d n p with
    | some ch => .next { s with ch := ch }.complete
    | none => .refused .undefOperand
  else .next (s.packOverflow (streamLen np) d.toNat)

/-- PACK as one transition (R130, R187). -/
def execPack (s : State) : Host.Outcome State Fault Refusal := s.begin fun s0 => packChecked s0 (packWrite s0)

/-- The cursor after the bit at it has been written (the lower half of `PackStep`, R135, and the phase switch, R136). -/
def Cursor.packNext (c : Cursor) : Cursor :=
  let byteDone := c.bi + 1 = 8
  let chanDone := c.bp + 1 = c.ad
  let bc := if byteDone then c.bc + 1 else c.bc
  let toBody := c.ph = .packPreamble ∧ bc = Config.preambleBytes
  { c with
    bi := if byteDone then 0 else c.bi + 1
    bc := bc
    bp := if chanDone then 0 else c.bp + 1
    ci := if chanDone then c.ci + 1 else c.ci
    ph := if toBody then .packBody else c.ph
    ad := if toBody then c.ld.toNat else c.ad }

/-- `PackStep` (R135), the three tests in its order. A source bit that is `undef` refuses the command (R21) unless the stream
is too short anyway: then the outcome is `CapacityExceeded` and does not depend on it (U1, R141, log 10). -/
def packStep (s : State) (c : Cursor) : Host.Outcome State Fault Refusal :=
  s.withOperand s.numpix fun np =>
    if c.bc = totalBytes c.ln.toNat c.lp.toNat then .next s.complete
    else if c.ci = streamLen np then .next (s.packOverflow (streamLen np) c.ld.toNat)
    else
      match serBit s.fni s.pli c.ld c.ln c.lp (8 * c.bc + c.bi) with
      | some v => .next { s with ch := s.ch.writeBit c.ci c.bp v, cursor := some c.packNext }
      | none =>
        if packFits (streamLen np) c.ld c.ln c.lp then .refused .undefOperand
        else .next { s with cursor := some c.packNext }

end Sys2Proof.Machine
end

