-- ==== Sys2Proof/Machine/Unpack.lean ====
section
/-! DEFINITION. The command UNPACK (42_unpack.md) in its closed form (R168, R169) and its steps: `StoreByte` (R154), `ReadStep`
(R157) and `Transitions` (R160). Machine/Engine.lean runs the steps. -/

namespace Sys2Proof.Machine

/-- What R168 and R169 say of a stream. -/
inductive UnpackResult where
  /-- A bit the command reads is `undef` (R21). -/
  | undef
  /-- The command ends with this error kind. -/
  | error (e : ErrKind)
  /-- Success: depth, filename length, filename, payload length, payload. -/
  | ok (d n : Byte) (name : List Byte) (p : Word) (payload : List Byte)
  deriving DecidableEq, Repr

/-- The stream is exhausted before the boundary (R156): every bit it holds at depth `d` has been read. -/
def unpackTruncated (ch : Space) (len d : Nat) : UnpackResult :=
  if bitsKnown ch d 0 (streamBits len d) then .error .truncatedStream else .undef

/-- Tests 7 and 8 of R168, and R169: the payload, whose length is `p`. -/
def unpackPayload (ch : Space) (len : Nat) (d n : Byte) (p : Word) : UnpackResult :=
  if len < used d.toNat (bodyBytes n.toNat p.toNat) then unpackTruncated ch len d.toNat
  else
    match streamBytes ch d.toNat 15 n.toNat, streamBytes ch d.toNat (19 + n.toNat) p.toNat with
    | some name, some payload => .ok d n name p payload
    | _, _ => .undef

/-- Test 6 of R168: filename and payload length. -/
def unpackLengths (ch : Space) (len : Nat) (d n : Byte) : UnpackResult :=
  if len < used d.toNat (bodyBytes n.toNat 0) then unpackTruncated ch len d.toNat
  else
    match streamByte ch d.toNat (15 + n.toNat), streamByte ch d.toNat (16 + n.toNat),
        streamByte ch d.toNat (17 + n.toNat), streamByte ch d.toNat (18 + n.toNat) with
    | some b0, some b1, some b2, some b3 =>
      -- the filename stands before the length in the stream: an `undef` bit of it has been read by now
      if bitsKnown ch d.toNat (8 * 15) (8 * n.toNat) then unpackPayload ch len d n (unLe32 b0 b1 b2 b3) else .undef
    | _, _, _, _ => .undef

/-- Test 5 of R168: the filename length. -/
def unpackBody (ch : Space) (len : Nat) (d : Byte) : UnpackResult :=
  if len < used d.toNat 1 then unpackTruncated ch len d.toNat
  else
    match streamByte ch d.toNat 14 with
    | some n => unpackLengths ch len d n
    | none => .undef

/-- Tests 3 and 4 of R168: the depth byte. -/
def unpackDepth (ch : Space) (len : Nat) : UnpackResult :=
  if len < Config.preambleChannels then unpackTruncated ch len 1
  else
    match streamByte ch 1 13 with
    | some d => if d.toNat < 1 ∨ 8 < d.toNat then .error .invalidBitDepth else unpackBody ch len d
    | none => .undef

/-- The outcome of UNPACK on the first `len` channels of `ch` (R168), tests 1 and 2 first. -/
def unpackStream (ch : Space) (len : Nat) : UnpackResult :=
  if len < 8 * Config.magicLen then unpackTruncated ch len 1
  else
    match streamBytes ch 1 0 Config.magicLen with
    | some m => if m ≠ Config.magic then .error .magicMismatch else unpackDepth ch len
    | none => .undef

/-- The output record filled (R169) and `UPVALID` set. -/
def State.deliver (s : State) (d n : Byte) (name : List Byte) (p : Word) (payload : List Byte) : State :=
  { s with
    upvalid := true
    upDepth := Reg.holds (d.setWidth 32)
    upFnlen := Reg.holds (n.setWidth 32)
    upPlen := Reg.holds p
    fno := s.fno.writeBytes 0 name
    plo := s.plo.writeBytes 0 payload }

/-- UNPACK after its start (R151): the output record is `undef` until the outcome is known, and after any error (R167). -/
def unpackRead (s : State) (np : Word) : Host.Outcome State Fault Refusal :=
  match unpackStream s.ch (streamLen np) with
  | .undef => .refused .undefOperand
  | .error e => .next (s.fail e)
  | .ok d n name p payload => .next (s.deliver d n name p payload).complete

/-- UNPACK as one transition (R150, R187). -/
def execUnpack (s : State) : Host.Outcome State Fault Refusal :=
  s.begin fun s0 => s0.withOperand s0.numpix fun np => unpackRead s0.dropOutput np

/-- `StoreByte(k, v)` (R154) on the cursor: `MM`, `LD`, `LN`, `LP`. -/
def Cursor.storeByte (c : Cursor) (k : Nat) (v : Byte) : Cursor :=
  if k ≤ 12 then (if v ≠ Config.magic.getD k 0 then { c with mm := true } else c)
  else if k = 13 then { c with ld := v.setWidth 32 }
  else if k = 14 then { c with ln := v.setWidth 32 }
  else if k ≤ 14 + c.ln.toNat then c
  else if k ≤ 18 + c.ln.toNat then { c with lp := c.lp ||| (v.setWidth 32 <<< (8 * (k - 15 - c.ln.toNat))) }
  else c

/-- `StoreByte(k, v)` (R154) on the output buffers; `ln` is the latch `LN`. -/
def State.storeByte (s : State) (ln : Word) (k : Nat) (v : Byte) : State :=
  if k ≤ 14 then s
  else if k ≤ 14 + ln.toNat then { s with fno := s.fno.writeByte (k - 15) v }
  else if k ≤ 18 + ln.toNat then s
  else { s with plo := s.plo.writeByte (k - 19 - ln.toNat) v }

/-- One pass through the cases of `Transitions` (R160), which repeats until `stay`. -/
inductive Transition where
  /-- A case applied and the cursor moved on. -/
  | moved (c : Cursor)
  /-- The command failed. -/
  | failed (e : ErrKind)
  /-- The payload boundary is reached (R166). -/
  | finished
  /-- No case applies. -/
  | stay
  deriving DecidableEq, Repr

/-- The cases of `Transitions` (R160 to R166). -/
def Cursor.transition (c : Cursor) : Transition :=
  match c.ph with
  | .readingMagic =>
    if c.bc = 13 then (if c.mm then .failed .magicMismatch else .moved { c with ph := .readingBitDepth }) else .stay
  | .readingBitDepth =>
    if c.bc = 14 then
      (if c.ld.toNat < 1 ∨ 8 < c.ld.toNat then .failed .invalidBitDepth
       else .moved { c with ad := c.ld.toNat, ph := .readingFilenameLength })
    else .stay
  | .readingFilenameLength => if c.bc = 15 then .moved { c with ph := .readingFilename } else .stay
  | .readingFilename => if c.bc = 15 + c.ln.toNat then .moved { c with ph := .readingPayloadLength } else .stay
  | .readingPayloadLength => if c.bc = 19 + c.ln.toNat then .moved { c with ph := .readingPayload } else .stay
  | .readingPayload => if c.bc = 19 + c.ln.toNat + c.lp.toNat then .finished else .stay
  | .packPreamble => .stay
  | .packBody => .stay
  | .capCompute => .stay

/-- The last transition (R166): the scalar output registers are written and `UPVALID` is set. -/
def State.finishUnpack (s : State) (c : Cursor) : State :=
  { s with upDepth := Reg.holds c.ld, upFnlen := Reg.holds c.ln, upPlen := Reg.holds c.lp, upvalid := true }.complete

/-- `Transitions` (R160) from cursor `c`, at most `fuel` passes: six suffice, one per phase (R171). After an error all of UPO is
`undef` (R167). -/
def transitions : Nat → State → Cursor → State
  | 0, s, c => { s with cursor := some c }
  | fuel + 1, s, c =>
    match c.transition with
    | .moved c' => transitions fuel s c'
    | .failed e => s.dropOutput.fail e
    | .finished => s.finishUnpack c
    | .stay => { s with cursor := some c }

/-- The cursor after `ReadStep` (R157) has read bit `v`. -/
def Cursor.readNext (c : Cursor) (v : Bool) : Cursor :=
  let sh := setBit c.sh c.bi v
  let byteDone := c.bi + 1 = 8
  let chanDone := c.bp + 1 = c.ad
  let c' := if byteDone then c.storeByte c.bc sh else c
  { c' with
    sh := if byteDone then 0 else sh
    bi := if byteDone then 0 else c.bi + 1
    bc := if byteDone then c.bc + 1 else c.bc
    bp := if chanDone then 0 else c.bp + 1
    ci := if chanDone then c.ci + 1 else c.ci }

/-- The output buffers after `ReadStep` (R157) has read bit `v`. -/
def State.readNext (s : State) (c : Cursor) (v : Bool) : State :=
  if c.bi + 1 = 8 then s.storeByte c.ln c.bc (setBit c.sh c.bi v) else s

/-- One turn of UNPACK's loop (R150, R153): `ReadStep`, then `Transitions` (log 18). -/
def unpackStep (s : State) (c : Cursor) : Host.Outcome State Fault Refusal :=
  s.withOperand s.numpix fun np =>
    if c.ci = streamLen np then .next (s.dropOutput.fail .truncatedStream)
    else
      match s.ch.readBit c.ci c.bp with
      | some v => .next (transitions 7 (s.readNext c v) (c.readNext v))
      | none => .refused .undefOperand

end Sys2Proof.Machine
end

