-- ==== Sys2Proof/Machine/Engine.lean ====
section
/-! DEFINITION. The stepwise view of a command (R187): its start, and one step of the running engine. -/

namespace Sys2Proof.Machine

/-- The cursor as the start of PACK or UNPACK creates it, in phase `ph` (R49), with the latches `LD`, `LN`, `LP`. CAP's cursor
is made here too: R49 gives it `PH` only, and that its other fields hold `AD` = 1 and 0 is the model's own (DESIGN CHOICE,
log 20). -/
def Cursor.create (ph : Phase) (d n p : Word) : Cursor where
  ph := ph
  ci := 0
  bp := 0
  ad := 1
  bc := 0
  bi := 0
  sh := 0
  mm := false
  ld := d
  ln := n
  lp := p

/-- The start of a command: the flags are cleared, PACK makes its checks, and the cursor is created (R120, R130, R150, R49).
R150 clears `LP`; that UNPACK's `LD` and `LN`, which no rule reads before bytes 13 and 14 complete (R48), start at 0 is the
model's own (DESIGN CHOICE, log 20). -/
def start (i : Instr) (s : State) : Host.Outcome State Fault Refusal :=
  match i with
  | .cap => s.begin fun s0 => .next { s0 with cursor := some (Cursor.create .capCompute 0 0 0) }
  | .pack =>
    s.begin fun s0 =>
      packChecked s0 fun d n p _ => .next { s0 with cursor := some (Cursor.create .packPreamble d n p) }
  | .unpack =>
    s.begin fun s0 =>
      s0.withOperand s0.numpix fun _ =>
        .next { s0.dropOutput with cursor := some (Cursor.create .readingMagic 0 0 0) }

/-- One step of the engine in the phase its cursor names; an idle engine does nothing (R226). -/
def engineStep (s : State) : Host.Outcome State Fault Refusal :=
  match s.cursor with
  | none => .next s
  | some c =>
    match c.ph with
    | .capCompute => capCompute s
    | .packPreamble => packStep s c
    | .packBody => packStep s c
    | .readingMagic => unpackStep s c
    | .readingBitDepth => unpackStep s c
    | .readingFilenameLength => unpackStep s c
    | .readingFilename => unpackStep s c
    | .readingPayloadLength => unpackStep s c
    | .readingPayload => unpackStep s c

/-- The engine run for at most `fuel` steps, until the command has ended or the model gives no step. -/
def runEngine : Nat → State → Host.Outcome State Fault Refusal
  | 0, s => .next s
  | fuel + 1, s =>
    if s.busy then
      match engineStep s with
      | .next s' => runEngine fuel s'
      | .fault f => .fault f
      | .refused r => .refused r
    else .next s

/-- A command started and then run step by step. -/
def runCommand (fuel : Nat) (i : Instr) (s : State) : Host.Outcome State Fault Refusal :=
  match start i s with
  | .next s' => runEngine fuel s'
  | .fault f => .fault f
  | .refused r => .refused r

end Sys2Proof.Machine
end

