-- ==== Sys2Proof/Machine/Flags.lean ====
section
/-! DEFINITION. The flag register as the host reads it (R34), the error codes (R196), and the register file by number (R37, R38). -/

namespace Sys2Proof.Machine

/-- `STATUS` as one word: `BUSY`, `DONE`, `ERR`, `UPVALID` in bits 0 to 3, the rest 0 (R34). -/
def State.statusWord (s : State) : Word :=
  (if s.busy then 1#32 else 0#32) ||| (if s.done then 2#32 else 0#32) |||
    (if s.err then 4#32 else 0#32) ||| (if s.upvalid then 8#32 else 0#32)

/-- The code of each error kind (R196). -/
def ErrKind.code : ErrKind → Word
  | .capacityExceeded => 1
  | .magicMismatch => 2
  | .invalidBitDepth => 3
  | .truncatedStream => 4
  | .filenameTooLong => 5
  | .ioFailure => 6
  | .illegalCommand => 7

/-- `ERRCODE` as one word (R35, R196). -/
def State.errcodeWord (s : State) : Word :=
  match s.errcode with
  | some e => e.code
  | none => 0

/-- What a host read of a register number returns, `free` standing for the arbitrary value of an `undef` register; `none` for
the reserved numbers (R37, R38, R180). `CMD` reads 0 (R33). -/
def State.hostRead (s : State) (free : Word) : Nat → Option Word
  | 0x00 => some 0
  | 0x01 => some s.statusWord
  | 0x02 => some s.errcodeWord
  | 0x03 => some (s.numpix.hostValue free)
  | 0x04 => some (s.pkDepth.hostValue free)
  | 0x05 => some (s.pkFnlen.hostValue free)
  | 0x06 => some (s.pkPlen.hostValue free)
  | 0x07 => some (s.capres.hostValue free)
  | 0x08 => some (s.upDepth.hostValue free)
  | 0x09 => some (s.upFnlen.hostValue free)
  | 0x0A => some (s.upPlen.hostValue free)
  | _ => none

/-- A host write of a register other than `CMD` (number 0x00, which never comes here): the four input registers store all 32 bits and become defined, the
read-only ones ignore it; `none` for the reserved numbers (R38, R181). -/
def State.hostWrite (s : State) (v : Word) : Nat → Option State
  | 0x01 => some s
  | 0x02 => some s
  | 0x03 => some { s with numpix := Reg.holds v }
  | 0x04 => some { s with pkDepth := Reg.holds v }
  | 0x05 => some { s with pkFnlen := Reg.holds v }
  | 0x06 => some { s with pkPlen := Reg.holds v }
  | 0x07 => some s
  | 0x08 => some s
  | 0x09 => some s
  | 0x0A => some s
  | _ => none

end Sys2Proof.Machine
end

