-- ==== Sys2Proof/Machine/HostMoves.lean ====
section
/-! DEFINITION. The host's moves (43_host_ops.md), the external reset (R225, R227), and the pseudo-operations of the host script
notation (R115). -/

namespace Sys2Proof.Machine

/-- The host reads `r`: the reply is recorded and the counter of free values moves on by `k`; nothing else changes (R180). -/
def State.answer (s : State) (r : Reply) (k : Nat) : State :=
  { s with replies := s.replies ++ [r], fresh := s.fresh + k }

/-- A reserved command word (R102, R203, R210): it starts and ends at once with `IllegalCommand`, no operand looked at. -/
def State.illegalCommand (s : State) : State := s.started.fail .illegalCommand

/-- A write to `CMD` (R184): a command word runs its command, in the view the parameters name (R187); a reserved word ends with
`IllegalCommand`. -/
def writeCmd (w : Word) (s : State) : Host.Outcome State Fault Refusal :=
  match decode w with
  | .ok i =>
    match s.cfg.view with
    | .atomic => exec i s
    | .stepwise => start i s
  | .error _ => if s.busy then .refused .hostMoveWhileBusy else .next s.illegalCommand

/-- `RD reg` (R180). -/
def hostRd (reg : Nat) (s : State) : Host.Outcome State Fault Refusal :=
  match s.hostRead (Config.freeWord s.fresh) reg with
  | some v => .next (s.answer (.word v) 1)
  | none => .refused .reservedRegister

/-- `WR reg, value` (R181, R184). -/
def hostWr (reg : Nat) (v : Word) (s : State) : Host.Outcome State Fault Refusal :=
  if reg = 0x00 then writeCmd v s
  else
    match s.hostWrite v reg with
    | some s' => .next s'
    | none => .refused .reservedRegister

/-- `RDM space, addr, n` (R182). -/
def hostRdm (name : SpaceName) (a n : Nat) (s : State) : Host.Outcome State Fault Refusal :=
  if a + n ≤ spaceSize s.cfg name then .next (s.answer (.bytes ((s.space name).hostBytes s.fresh a n)) n)
  else .fault .addressOutsideSpace

/-- `WRM space, addr, b0 b1 ...` (R183): all bytes inside the space, or none is written. -/
def hostWrm (name : SpaceName) (a : Nat) (bs : List Byte) (s : State) : Host.Outcome State Fault Refusal :=
  if a + bs.length ≤ spaceSize s.cfg name then .next (s.hostWriteBytes name a bs)
  else .fault .addressOutsideSpace

/-- The external reset (R225, R227): a running command is abandoned and the block is as after any reset. The block's
parameters and the model's own fields stay (log 19). -/
def State.hardReset (s : State) : State :=
  { State.reset with cfg := s.cfg, script := s.script, replies := s.replies, fresh := s.fresh }

/-- `WAIT` while the engine is idle: the poll that reads `DONE = 1` ends it (R186); with no command ever started the host polls
on, which moves nothing. `rest` is the script after the `WAIT`. -/
def hostWait (rest : List HostMove) (s : State) : Host.Outcome State Fault Refusal :=
  if s.done then .next ({ s with script := rest }.answer (.word s.statusWord) 1) else .next s

/-- A host move while the engine is idle (`BUSY = 0`, R180 to R184). R80 and R232 close the host's access until `DONE = 1` has
been read, R185 and U4 only while `BUSY = 1`: that a move made between the end of a command and that read has its ordinary effect
is the model's own (DESIGN CHOICE, log 21). -/
def idleMove (m : HostMove) (rest : List HostMove) (s : State) : Host.Outcome State Fault Refusal :=
  match m with
  | .rd reg => hostRd reg { s with script := rest }
  | .wr reg v => hostWr reg v { s with script := rest }
  | .rdm name a n => hostRdm name a n { s with script := rest }
  | .wrm name a bs => hostWrm name a bs { s with script := rest }
  | .wait => hostWait rest s
  | .pause => .next { s with script := rest }
  | .reset => .next { s with script := rest }.hardReset

/-- A host move while a command runs (R185): only `STATUS` and `ERRCODE` may be read; during a `WAIT` or a pause the engine
takes its step; every other move has no step in the model (U4). -/
def busyMove (m : HostMove) (rest : List HostMove) (s : State) : Host.Outcome State Fault Refusal :=
  match m with
  | .rd reg =>
    if reg = 0x01 ∨ reg = 0x02 then hostRd reg { s with script := rest } else .refused .hostMoveWhileBusy
  | .wr _ _ => .refused .hostMoveWhileBusy
  | .rdm _ _ _ => .refused .hostMoveWhileBusy
  | .wrm _ _ _ => .refused .hostMoveWhileBusy
  | .wait => engineStep s
  | .pause => engineStep { s with script := rest }
  | .reset => .next { s with script := rest }.hardReset

/-- One step of the whole machine: the host's next move, or, when the script is used up, a step of the engine. What the host may
do is decided by `BUSY` alone, whether or not it has read `DONE = 1` (DESIGN CHOICE, log 21). So in the atomic view a move right
after the `CMD` write is one of an idle engine, and in the stepwise view it is one of a running command (R185). -/
def machineStep (s : State) : Host.Outcome State Fault Refusal :=
  match s.script with
  | [] => engineStep s
  | m :: rest => if s.busy then busyMove m rest s else idleMove m rest s

/-- The pseudo-operation `CAP` (R115). -/
def HostMove.cap : HostMove := .wr 0x00 0x00000001

/-- The pseudo-operation `PACK` (R115). -/
def HostMove.pack : HostMove := .wr 0x00 0x00000002

/-- The pseudo-operation `UNPACK` (R115). -/
def HostMove.unpack : HostMove := .wr 0x00 0x00000003

/-- The pseudo-operation `FILL space, addr, n, b` (R115): `n` single-byte writes. -/
def HostMove.fill (name : SpaceName) (a : Nat) : Nat → Byte → List HostMove
  | 0, _ => []
  | n + 1, b => .wrm name a [b] :: HostMove.fill name (a + 1) n b

/-- `s` with the host about to write the command word `w`: the engine is idle and the write is the next line of its script. -/
def State.withCmdWrite (s : State) (w : Word) : State :=
  { s with
    cfg := { s.cfg with view := .atomic }
    cursor := none
    script := .wr 0x00 w :: s.script }

end Sys2Proof.Machine
end

