-- ==== Sys2Proof/Machine/Step.lean ====
section
/-! DEFINITION. One step of the machine, and the placing of a command word where the next step takes it. -/

namespace Sys2Proof.Machine

/-- One step: Machine/HostMoves.lean says what it does. -/
def step (s : State) : Host.Outcome State Fault Refusal := machineStep s

/-- `s` with the command word `w` (its `nbits` bits) as the host's next `CMD` write, in the atomic view (log 6). -/
def State.withFetchWord (s : State) (nbits w : Nat) : State := s.withCmdWrite (BitVec.ofNat 32 (w % 2 ^ nbits))

end Sys2Proof.Machine
end

