-- ==== Sys2Proof/Safety.lean ====
section
/-! DEFINITION. What counts as a safe state, in the terms the claims use: the canonical form of memory, the flags (R34), the
cursor (R42 to R50), the ranges of the spaces (R60), and the output record (R27 to R29). -/

namespace Sys2Proof.Machine

/-- Every byte space is in its canonical form. -/
def State.Canonical (s : State) : Prop :=
  s.ch.wf = true ∧ s.fni.wf = true ∧ s.pli.wf = true ∧ s.fno.wf = true ∧ s.plo.wf = true

/-- What R34 and R35 say of the flags: `BUSY` and `DONE` are never both 1, `ERR` implies `DONE`, `ERRCODE` holds a kind exactly
when `ERR` is set, and never `IOFailure` (R202). -/
def State.FlagsOk (s : State) : Prop :=
  (s.done = true → s.busy = false) ∧ (s.err = true → s.done = true) ∧ (s.errcode.isSome = s.err) ∧
    s.errcode ≠ some .ioFailure

/-- The number `j` of serialized bits processed so far (R50). -/
def Cursor.bitsDone (c : Cursor) : Nat := 8 * c.bc + c.bi

/-- Where the cursor stands after `j` bits of a payload of depth `d` (R50). -/
def Cursor.Placed (c : Cursor) (d : Nat) : Prop :=
  if c.bitsDone < 112 then c.ad = 1 ∧ c.ci = c.bitsDone ∧ c.bp = 0
  else c.ad = d ∧ c.ci = 112 + (c.bitsDone - 112) / d ∧ c.bp = (c.bitsDone - 112) % d

/-- What holds of the cursor of PACK and UNPACK in a stream of `numpix` pixels: inside the stream (R42), `BI` inside the byte
(R46), and placed as R50 says. -/
def Cursor.InStream (c : Cursor) (cfg : Config.Params) (numpix : Word) : Prop :=
  numpix.toNat ≤ cfg.numpixMax ∧ c.ci ≤ streamLen numpix ∧ c.bi < 8 ∧ c.Placed c.ld.toNat

/-- A depth of the range 1..8 (R22). -/
abbrev legalDepth (d : Nat) : Prop := 1 ≤ d ∧ d ≤ 8

/-- PACK's latches and byte count: the checks of R131 and R132 have passed, and at most `T` bytes are written. -/
def Cursor.PackOk (c : Cursor) : Prop :=
  legalDepth c.ld.toNat ∧ c.ln.toNat ≤ 255 ∧
    (c.bc < totalBytes c.ln.toNat c.lp.toNat ∨ (c.bc = totalBytes c.ln.toNat c.lp.toNat ∧ c.bi = 0))

/-- The phases of UNPACK (R152). -/
def Phase.ofUnpack : Phase → Bool
  | .packPreamble => false
  | .packBody => false
  | .capCompute => false
  | .readingMagic => true
  | .readingBitDepth => true
  | .readingFilenameLength => true
  | .readingFilename => true
  | .readingPayloadLength => true
  | .readingPayload => true

/-- The byte counts at which the engine stands in each phase between two steps (R136, R152). `LP` is 0 until its first byte
completes (R150); that `LN` is 0 until byte 14 completes is the model's own value (DESIGN CHOICE, log 20). -/
def Cursor.PhaseOk (c : Cursor) : Prop :=
  match c.ph with
  | .capCompute => True
  | .packPreamble => c.PackOk ∧ c.bc < 14
  | .packBody => c.PackOk ∧ 14 ≤ c.bc
  | .readingMagic => c.bc < 13 ∧ c.ln = 0 ∧ c.lp = 0
  | .readingBitDepth => c.bc = 13 ∧ c.mm = false ∧ c.ln = 0 ∧ c.lp = 0
  | .readingFilenameLength => c.bc = 14 ∧ legalDepth c.ld.toNat ∧ c.ln = 0 ∧ c.lp = 0
  | .readingFilename =>
    legalDepth c.ld.toNat ∧ c.ln.toNat ≤ 255 ∧ c.lp = 0 ∧ 15 ≤ c.bc ∧ c.bc < 15 + c.ln.toNat
  | .readingPayloadLength =>
    legalDepth c.ld.toNat ∧ c.ln.toNat ≤ 255 ∧ 15 + c.ln.toNat ≤ c.bc ∧ c.bc < 19 + c.ln.toNat
  | .readingPayload =>
    legalDepth c.ld.toNat ∧ c.ln.toNat ≤ 255 ∧ 19 + c.ln.toNat ≤ c.bc ∧
      c.bc < 19 + c.ln.toNat + c.lp.toNat

/-- The cursor invariants (R42 to R50) and, during UNPACK, `UPVALID = 0` (R151, R186). -/
def State.CursorOk (s : State) : Prop :=
  match s.cursor with
  | none => True
  | some c =>
    c.PhaseOk ∧ (c.ph ≠ .capCompute → c.InStream s.cfg s.numpix.val) ∧
      (c.ph.ofUnpack = true → s.upvalid = false)

/-- No space holds anything outside its cells (R60, R66). -/
def State.RangeOk (s : State) : Prop :=
  ∀ (name : SpaceName) (a : Nat), spaceSize s.cfg name ≤ a → (s.space name).known.read a = 0#8

/-- The output record while `UPVALID = 1` (R27 to R29). -/
def State.OutputDefined (s : State) : Prop :=
  s.upDepth.defined = true ∧ legalDepth s.upDepth.val.toNat ∧
  s.upFnlen.defined = true ∧ s.upFnlen.val.toNat ≤ 255 ∧ s.upPlen.defined = true ∧
  (∀ a, s.fno.known.read a = if a < s.upFnlen.val.toNat then 0xFF#8 else 0#8) ∧
  (∀ a, s.plo.known.read a = if a < s.upPlen.val.toNat then 0xFF#8 else 0#8)

/-- The three scalar registers of the output record marked `undef` (R27 to R29). -/
def State.OutputRegsUndef (s : State) : Prop :=
  s.upDepth.defined = false ∧ s.upFnlen.defined = false ∧ s.upPlen.defined = false

/-- Is the engine in a phase of UNPACK? -/
def State.unpacking (s : State) : Bool :=
  match s.cursor with
  | some c => c.ph.ofUnpack
  | none => false

/-- How far the running UNPACK has filled the output buffers (R154). -/
def State.OutputProgress (s : State) (c : Cursor) : Prop :=
  (∀ a, s.fno.known.read a = if a + 15 < c.bc ∧ a < c.ln.toNat then 0xFF#8 else 0#8) ∧
  (∀ a, s.plo.known.read a = if a + 19 + c.ln.toNat < c.bc then 0xFF#8 else 0#8)

/-- The output record (R27 to R29, R151, R167): complete while `UPVALID = 1`; `undef` while `UPVALID = 0`, the buffers of a
running UNPACK apart, which the host cannot read. -/
def State.OutputOk (s : State) : Prop :=
  (s.upvalid = true → s.OutputDefined) ∧
  (s.upvalid = false → s.OutputRegsUndef) ∧
  (s.upvalid = false → s.unpacking = false → s.fno = Space.undef ∧ s.plo = Space.undef) ∧
  (∀ c, s.cursor = some c → c.ph.ofUnpack = true → s.OutputProgress c)

/-- A safe state. -/
structure State.Inv (s : State) : Prop where
  legal : s.cfg.legal = true
  canonical : s.Canonical
  flags : s.FlagsOk
  cursor : s.CursorOk
  range : s.RangeOk
  output : s.OutputOk

/-! ## The terms the claims use -/

/-- `s` with the flags of a command that has ended, with error kind `e` or without (R204, R205). -/
def State.ended (s : State) (e : Option ErrKind) : State :=
  { s with done := true, err := e.isSome, errcode := e, cursor := none }

/-- The operands of CAP written by the host (R228), on an idle engine with a legal `NUMPIX` (R31). -/
structure State.CapReady (s : State) (d n np : Word) : Prop where
  idle : s.cursor = none
  depth : s.pkDepth = Reg.holds d
  fnlen : s.pkFnlen = Reg.holds n
  numpix : s.numpix = Reg.holds np
  inRange : np.toNat ≤ s.cfg.numpixMax

/-- The scalar operands of PACK written by the host (R229). -/
structure State.PackReady (s : State) (d n p np : Word) : Prop extends s.CapReady d n np where
  plen : s.pkPlen = Reg.holds p

/-- A PACK that passes its checks (R131, R132). -/
structure State.PackLegal (s : State) (d n p np : Word) : Prop extends s.PackReady d n p np where
  legal : legalDepth d.toNat
  short : n.toNat ≤ 255

/-- The bytes of the input record a PACK reads, written by the host (R229). -/
def State.BuffersDefined (s : State) (n p : Word) : Prop :=
  (∀ i, i < n.toNat → (s.fni.readByte i).isSome = true) ∧ (∀ i, i < p.toNat → (s.pli.readByte i).isSome = true)

/-- `Used(d, 5 + N + P) ≤ L` (R138). -/
abbrev Fits (d n p np : Word) : Prop := used d.toNat (bodyBytes n.toNat p.toNat) ≤ streamLen np

/-- The operand of UNPACK written by the host (R230), on an idle engine. -/
structure State.UnpackReady (s : State) (np : Word) : Prop where
  idle : s.cursor = none
  numpix : s.numpix = Reg.holds np
  inRange : np.toNat ≤ s.cfg.numpixMax

/-- Bit 0 of channels 104 to 111 rewritten to the bits of `b` (R173). -/
def withDepthByte (ch : Space) (b : Byte) : Space :=
  (List.range 8).foldl (fun sp k => sp.writeBit (104 + k) 0 (b.getLsbD k)) ch

/-- The place of a phase in the table of R152; the phases of the other commands come first. -/
def Phase.rank : Phase → Nat
  | .packPreamble => 0
  | .packBody => 0
  | .capCompute => 0
  | .readingMagic => 1
  | .readingBitDepth => 2
  | .readingFilenameLength => 3
  | .readingFilename => 4
  | .readingPayloadLength => 5
  | .readingPayload => 6

/-- The input record and `NUMPIX`, which the engine never writes, and what is the host's own (R22 to R26, R31). -/
def State.SameInput (s t : State) : Prop :=
  t.cfg = s.cfg ∧ t.numpix = s.numpix ∧ t.pkDepth = s.pkDepth ∧ t.pkFnlen = s.pkFnlen ∧ t.pkPlen = s.pkPlen ∧
    t.fni = s.fni ∧ t.pli = s.pli ∧ t.script = s.script ∧ t.replies = s.replies ∧ t.fresh = s.fresh

/-- The output record and its valid flag (R27 to R29). -/
def State.SameOutput (s t : State) : Prop :=
  t.upDepth = s.upDepth ∧ t.upFnlen = s.upFnlen ∧ t.upPlen = s.upPlen ∧ t.fno = s.fno ∧ t.plo = s.plo ∧
    t.upvalid = s.upvalid

end Sys2Proof.Machine
end

