-- ==== Sys2Proof/Certificates/Slice0/Obligations.lean ====
section
/-! DEFINITION. The statements for the provers, from the numbered rules of spec/. -/

open Sys2Proof Sys2Proof.Machine

/-- R101, and the two directions of the command map: decode and encode agree on every command, and the whole 32-bit word is matched. -/
def Obligations.DecodeEncode : Prop :=
  encode .cap = 0x00000001#32 ∧ encode .pack = 0x00000002#32 ∧ encode .unpack = 0x00000003#32 ∧
    ∀ (w : Word) (i : Instr), decode w = .ok i ↔ w = encode i

/-- R100 and R102 field by field: a set bit in [31:4] is reported as reserved bits, otherwise an `OP` of 0 or 4 to 15 as a reserved `OP`. -/
def Obligations.ReservedWords : Prop :=
  ∀ w : Word,
    (decode w = .error .reservedBits ↔ w.extractLsb' 4 28 ≠ 0) ∧
    (decode w = .error .reservedOp ↔ w.extractLsb' 4 28 = 0 ∧ (w.extractLsb' 0 4 = 0 ∨ 4 ≤ (w.extractLsb' 0 4).toNat))

/-- R184 in the two views of R187. What step adds around exec is that the move is taken off the script. The last clause is about the model's own placing of a word (log 6). -/
def Obligations.StepRunsCommand : Prop :=
  (∀ (s : State) (w : Word) (i : Instr) (rest : List HostMove),
      s.cursor = none → s.script = .wr 0x00 w :: rest → decode w = .ok i →
      (s.cfg.view = .atomic → step s = exec i { s with script := rest }) ∧
      (s.cfg.view = .stepwise → step s = start i { s with script := rest })) ∧
    (∀ (s : State) (i : Instr),
      step (s.withFetchWord 32 (encode i).toNat) =
        exec i { s with cfg := { s.cfg with view := .atomic }, cursor := none })

/-- R102, R203 and R210: no hypothesis on any operand register, `undef` ones and illegal ones included. -/
def Obligations.IllegalCommand : Prop :=
  ∀ (s : State) (w : Word) (rest : List HostMove),
    s.cursor = none → s.script = .wr 0x00 w :: rest → w ≠ 1 → w ≠ 2 → w ≠ 3 →
    step s = .next ({ s with script := rest }.ended (some .illegalCommand))

/-- R121, and the completion and frame of CAP (R120). For `4 × NUMPIX < 112` the exact value is what R123 marks as the spec's own choice of floor division (D9, log 8, DEDUCED); U8 asks to rely on its sign alone, which is CapSign. -/
def Obligations.CapResult : Prop :=
  ∀ (s : State) (d n np : Word), s.CapReady d n np → legalDepth d.toNat → n.toNat ≤ 255 →
    exec .cap s = .next ({ s with
      capres := Reg.holds (BitVec.ofInt 32
        (Int.fdiv ((4 * (np.toNat : Int) - 112) * (d.toNat : Int)) 8 - (1 + (n.toNat : Int) + 4))) }.ended none)

/-- R122. The word `CAPRES` then holds is not said: only that it is `undef`. -/
def Obligations.CapOperandErrors : Prop :=
  ∀ (s : State) (d n np : Word), s.CapReady d n np →
    (255 < n.toNat → ∃ t, exec .cap s = .next t ∧ t.capres.defined = false ∧
      t = { s with capres := t.capres }.ended (some .filenameTooLong)) ∧
    (n.toNat ≤ 255 → ¬ legalDepth d.toNat → ∃ t, exec .cap s = .next t ∧ t.capres.defined = false ∧
      t = { s with capres := t.capres }.ended (some .invalidBitDepth))

/-- R123: what fits is said by `Used` (R77). For `L < 112` only the sign is claimed. -/
def Obligations.CapSign : Prop :=
  ∀ (s : State) (d n np : Word), s.cfg.legal = true → s.CapReady d n np → legalDepth d.toNat → n.toNat ≤ 255 →
    ∃ t, exec .cap s = .next t ∧ t.capres.defined = true ∧
      (t.capres.val.toInt < 0 ↔ streamLen np < used d.toNat (bodyBytes n.toNat 0)) ∧
      (t.capres.val.toInt = 0 ↔
        used d.toNat (bodyBytes n.toNat 0) ≤ streamLen np ∧ streamLen np < used d.toNat (bodyBytes n.toNat 1)) ∧
      (0 < t.capres.val.toInt ↔ used d.toNat (bodyBytes n.toNat 1) ≤ streamLen np) ∧
      (streamLen np < 112 → t.capres.val.toInt < 0)

/-- R125. -/
def Obligations.CapRange : Prop :=
  ∀ np d n : Nat, np ≤ 2 ^ 29 - 1 → legalDepth d → n ≤ 255 →
    -372 ≤ capacityBytes np d n ∧ capacityBytes np d n ≤ 2 ^ 31 - 121 ∧
    (BitVec.ofInt 32 (capacityBytes np d n)).toInt = capacityBytes np d n ∧
    -(2 ^ 35) ≤ (4 * (np : Int) - 112) * (d : Int) ∧ (4 * (np : Int) - 112) * (d : Int) < 2 ^ 35

/-- The first sentence of R126. -/
def Obligations.CapMonotone : Prop :=
  ∀ np d d' n : Nat, 28 ≤ np → d ≤ d' → capacityBytes np d n ≤ capacityBytes np d' n

/-- R239: CAP takes one step. No hypothesis: refusals agree too. -/
def Obligations.CapSteps : Prop :=
  ∀ s : State, runCommand 1 .cap s = exec .cap s

/-- R131. No hypothesis on the buffers, which R229 lets be `undef` here, nor on depth, payload length and pixel count being defined: that an `undef` register among these does not refuse the command is the model's choice (log 22, DESIGN CHOICE). -/
def Obligations.PackFilenameTooLong : Prop :=
  ∀ (s : State) (n : Word), s.cursor = none → s.pkFnlen = Reg.holds n → s.numpixOver = false →
    (255 < n.toNat → exec .pack s = .next (s.ended (some .filenameTooLong))) ∧
    (n.toNat ≤ 255 → ∀ t, exec .pack s = .next t → t.errcode ≠ some .filenameTooLong)

/-- R132. No hypothesis on payload length and pixel count being defined: that one of them being `undef` does not refuse the command is the model's choice (log 22, DESIGN CHOICE). -/
def Obligations.PackInvalidDepth : Prop :=
  ∀ (s : State) (d n : Word), s.cursor = none → s.pkFnlen = Reg.holds n → n.toNat ≤ 255 →
    s.pkDepth = Reg.holds d → ¬ legalDepth d.toNat → s.numpixOver = false →
    exec .pack s = .next (s.ended (some .invalidBitDepth))

/-- R139, with PACK's completion and its frame (bits of `CH` may be `undef` before: they stay so). -/
def Obligations.PackEndState : Prop :=
  ∀ (s : State) (d n p np : Word), s.PackLegal d n p np → s.BuffersDefined n p → Fits d n p np → s.ch.wf = true →
    ∃ t, exec .pack s = .next t ∧ t = { s with ch := t.ch }.ended none ∧
      (∀ j, j < 8 * totalBytes n.toNat p.toNat →
        ∃ v, serBit s.fni s.pli d n p j = some v ∧
          t.ch.readBit (place j d.toNat).1 (place j d.toNat).2 = some v) ∧
      (∀ i q, q < 8 → (∀ j, j < 8 * totalBytes n.toNat p.toNat → place j d.toNat ≠ (i, q)) →
        t.ch.readBit i q = s.ch.readBit i q)

/-- R137. No hypothesis on the buffers: that an `undef` byte of them does not refuse a PACK that cannot fit is the model's choice (log 10), which R141 allows. -/
def Obligations.PackOverflow : Prop :=
  ∀ (s : State) (d n p np : Word), s.PackLegal d n p np → s.ch.wf = true →
    (streamLen np < 112 → ¬ Fits d n p np) ∧
    (¬ Fits d n p np →
      ∃ t, exec .pack s = .next t ∧ t = { s with ch := t.ch }.ended (some .capacityExceeded) ∧
        ∀ i q, q < 8 → t.ch.readBit i q =
          if i < streamLen np ∧ q < (if i < 112 then 1 else d.toNat) then none else s.ch.readBit i q)

/-- R124 and R138: the capacity formula is exact. -/
def Obligations.CapacityExactness : Prop :=
  ∀ (s : State) (d n p np : Word), s.PackLegal d n p np → s.BuffersDefined n p →
    ∃ t, exec .pack s = .next t ∧ (t.errcode = none ↔ Fits d n p np) ∧
      (t.errcode = some .capacityExceeded ↔ ¬ Fits d n p np) ∧
      (Fits d n p np ↔ (p.toNat : Int) ≤ capacityBytes np.toNat d.toNat n.toNat)

/-- The consequence R64 draws, for success and for every error. -/
def Obligations.PackLowBitsOnly : Prop :=
  ∀ (s t : State) (d n p np : Word), s.PackReady d n p np → s.ch.wf = true → exec .pack s = .next t →
    ∀ i q, q < 8 → (streamLen np ≤ i ∨ (i < 112 ∧ 1 ≤ q) ∨ (112 ≤ i ∧ d.toNat ≤ q)) →
      t.ch.readBit i q = s.ch.readBit i q

/-- R145 (the step form and the closed form agree) with the step bound of R140; `streamBits` is `L` for `L ≤ 112` and `112 + (L − 112) × d` above. Where the sequence does not fit and a buffer byte is `undef`, both forms end with CapacityExceeded by the model's choice (log 10, DESIGN CHOICE). -/
def Obligations.PackSteps : Prop :=
  ∀ (s : State) (d n p np : Word), s.PackLegal d n p np → s.ch.wf = true →
    runCommand (min (8 * totalBytes n.toNat p.toNat) (streamBits (streamLen np) d.toNat) + 1) .pack s = exec .pack s

/-- R135 (with R136 inside it), one step, `Ser(BC)` being defined. -/
def Obligations.PackStepOrder : Prop :=
  ∀ (s : State) (c : Cursor) (np : Word), s.numpix = Reg.holds np →
    (c.bc = totalBytes c.ln.toNat c.lp.toNat → packStep s c = .next (s.ended none)) ∧
    (c.bc ≠ totalBytes c.ln.toNat c.lp.toNat → c.ci = streamLen np →
      ∃ t, packStep s c = .next t ∧ t = { s with ch := t.ch }.ended (some .capacityExceeded)) ∧
    (c.bc ≠ totalBytes c.ln.toNat c.lp.toNat → c.ci ≠ streamLen np → c.bi < 8 →
      ∀ b, ser s.fni s.pli c.ld c.ln c.lp c.bc = some b →
      ∃ c', packStep s c =
          .next { s with ch := s.ch.writeBit c.ci c.bp (b.getLsbD c.bi), cursor := some c' } ∧
        (if c.bi + 1 = 8 then c'.bi = 0 ∧ c'.bc = c.bc + 1 else c'.bi = c.bi + 1 ∧ c'.bc = c.bc) ∧
        (if c.bp + 1 = c.ad then c'.bp = 0 ∧ c'.ci = c.ci + 1 else c'.bp = c.bp + 1 ∧ c'.ci = c.ci) ∧
        (if c.ph = .packPreamble ∧ c'.bc = 14 then c'.ph = .packBody ∧ c'.ad = c.ld.toNat
          else c'.ph = c.ph ∧ c'.ad = c.ad) ∧
        c'.sh = c.sh ∧ c'.mm = c.mm ∧ c'.ld = c.ld ∧ c'.ln = c.ln ∧ c'.lp = c.lp)

/-- The idempotence R74 derives. -/
def Obligations.PackIdempotent : Prop :=
  ∀ (s : State) (d n p np : Word), s.PackLegal d n p np → s.BuffersDefined n p → Fits d n p np → s.ch.wf = true →
    ∃ t, exec .pack s = .next t ∧ exec .pack t = .next t

/-- R144. -/
def Obligations.DepthIndependence : Prop :=
  ∀ n p : Nat, 5 ≤ bodyBytes n p ∧ used 8 (bodyBytes n p) = 112 + bodyBytes n p ∧
    used 1 (bodyBytes n p) = 112 + 8 * bodyBytes n p ∧ used 8 (bodyBytes n p) < used 1 (bodyBytes n p)

/-- R168, every bit of the stream being defined (R230); `Byte(k)` at depth `D` is `streamByte`. -/
def Obligations.UnpackOutcome : Prop :=
  ∀ (s : State) (np : Word), s.UnpackReady np →
    (∀ i, i < streamLen np → ∀ q, q < 8 → (s.ch.readBit i q).isSome = true) →
    let L := streamLen np
    let byteAt : Nat → Nat → Byte := fun d k => (streamByte s.ch d k).getD 0
    let D := (byteAt 1 13).toNat
    let N := (byteAt D 14).toNat
    let P := (byteAt D (15 + N)).toNat + 256 * (byteAt D (16 + N)).toNat + 65536 * (byteAt D (17 + N)).toNat +
      16777216 * (byteAt D (18 + N)).toNat
    ∃ t, exec .unpack s = .next t ∧ t.errcode =
      if L < 104 then some .truncatedStream
      else if (List.range 13).map (byteAt 1) ≠ Config.magic then some .magicMismatch
      else if L < 112 then some .truncatedStream
      else if D < 1 ∨ 8 < D then some .invalidBitDepth
      else if L < 112 + ceilDiv 8 D then some .truncatedStream
      else if L < 112 + ceilDiv (8 * (5 + N)) D then some .truncatedStream
      else if L < 112 + ceilDiv (8 * (5 + N + P)) D then some .truncatedStream
      else none

/-- The first sentence of R169, with UNPACK's completion and frame; above the lengths every single bit of both buffers is `undef` (R28, R29). -/
def Obligations.UnpackSuccess : Prop :=
  ∀ (s : State) (np : Word) (D N b0 b1 b2 b3 : Byte), s.UnpackReady np →
    (∀ k, k < 13 → streamByte s.ch 1 k = some (Config.magic.getD k 0)) →
    streamByte s.ch 1 13 = some D → legalDepth D.toNat →
    streamByte s.ch D.toNat 14 = some N →
    streamByte s.ch D.toNat (15 + N.toNat) = some b0 → streamByte s.ch D.toNat (16 + N.toNat) = some b1 →
    streamByte s.ch D.toNat (17 + N.toNat) = some b2 → streamByte s.ch D.toNat (18 + N.toNat) = some b3 →
    used D.toNat (bodyBytes N.toNat (unLe32 b0 b1 b2 b3).toNat) ≤ streamLen np →
    (∀ i, i < N.toNat → (streamByte s.ch D.toNat (15 + i)).isSome = true) →
    (∀ i, i < (unLe32 b0 b1 b2 b3).toNat → (streamByte s.ch D.toNat (19 + N.toNat + i)).isSome = true) →
    ∃ t, exec .unpack s = .next t ∧ t.upvalid = true ∧ t.upDepth = Reg.holds (D.setWidth 32) ∧
      t.upFnlen = Reg.holds (N.setWidth 32) ∧ t.upPlen = Reg.holds (unLe32 b0 b1 b2 b3) ∧
      (∀ i, t.fno.readByte i = if i < N.toNat then streamByte s.ch D.toNat (15 + i) else none) ∧
      (∀ i, t.plo.readByte i =
        if i < (unLe32 b0 b1 b2 b3).toNat then streamByte s.ch D.toNat (19 + N.toNat + i) else none) ∧
      (∀ i q, q < 8 → N.toNat ≤ i → t.fno.readBit i q = none) ∧
      (∀ i q, q < 8 → (unLe32 b0 b1 b2 b3).toNat ≤ i → t.plo.readBit i q = none) ∧
      t = { s with
        upvalid := true, upDepth := t.upDepth, upFnlen := t.upFnlen, upPlen := t.upPlen,
        fno := t.fno, plo := t.plo }.ended none

/-- The second sentence of R169: changing any other bit of `CH` changes nothing. -/
def Obligations.UnpackReadsItsBits : Prop :=
  ∀ (s t : State) (ch' : Space), exec .unpack s = .next t → t.errcode = none →
    (∀ j, j < 8 * totalBytes t.upFnlen.val.toNat t.upPlen.val.toNat →
      streamBit ch' t.upDepth.val.toNat j = streamBit s.ch t.upDepth.val.toNat j) →
    exec .unpack { s with ch := ch' } = .next { t with ch := ch' }

/-- The second half of R167 and the 'state after' of R198 to R200. -/
def Obligations.UnpackFailure : Prop :=
  ∀ (s t : State) (e : ErrKind), exec .unpack s = .next t → t.errcode = some e →
    (e = .truncatedStream ∨ e = .magicMismatch ∨ e = .invalidBitDepth) ∧ t.upvalid = false ∧ t.OutputRegsUndef ∧
      (∀ a q, t.fno.readBit a q = none ∧ t.plo.readBit a q = none) ∧
      t.ch = s.ch ∧ t.capres = s.capres ∧ s.SameInput t ∧ t.done = true ∧ t.err = true ∧ t.cursor = none

/-- R151. -/
def Obligations.UnpackStart : Prop :=
  ∀ (s : State) (np : Word), s.UnpackReady np →
    ∃ t c, start .unpack s = .next t ∧ t.cursor = some c ∧ t.upvalid = false ∧ t.OutputRegsUndef ∧
      (∀ a q, t.fno.readBit a q = none ∧ t.plo.readBit a q = none) ∧
      c.ph = .readingMagic ∧ c.ci = 0 ∧ c.bp = 0 ∧ c.ad = 1 ∧ c.bc = 0 ∧ c.bi = 0

/-- R168 and R169 are derived from the steps of R157 and R160; the number of turns is the bound of R171. The refusals on both sides rest on log 12 and the count of turns on the grouping of log 18 (both DEDUCED). -/
def Obligations.UnpackSteps : Prop :=
  ∀ (s : State) (np : Word), s.UnpackReady np →
    runCommand (min (streamLen np) 112 + (streamLen np - 112) * 8 + 1) .unpack s = exec .unpack s

/-- `ReadStep` (R157) at every `BI` of 0 to 7, `StoreByte` (R154) case by case, and R156: `TruncatedStream` is raised here and only here. What `Transitions` does is TransitionsRepeat. The refusal follows from R21 (log 12, DEDUCED); that a turn is one `ReadStep` and the `Transitions` after it is log 18 (DEDUCED). -/
def Obligations.ReadStepEffect : Prop :=
  ∀ (s : State) (c : Cursor) (np : Word), s.numpix = Reg.holds np →
    (c.ci = streamLen np → unpackStep s c = .next (s.dropOutput.ended (some .truncatedStream))) ∧
    (c.ci ≠ streamLen np → s.ch.readBit c.ci c.bp = none → unpackStep s c = .refused .undefOperand) ∧
    (c.ci ≠ streamLen np → ∀ v, s.ch.readBit c.ci c.bp = some v →
      let b := setBit c.sh c.bi v
      let bp' := if c.bp + 1 = c.ad then 0 else c.bp + 1
      let ci' := if c.bp + 1 = c.ad then c.ci + 1 else c.ci
      (c.bi < 7 →
        unpackStep s c = .next (transitions 7 s { c with sh := b, bi := c.bi + 1, bp := bp', ci := ci' }) ∧
        (c.transition = .stay →
          unpackStep s c = .next { s with cursor := some { c with sh := b, bi := c.bi + 1, bp := bp', ci := ci' } })) ∧
      (c.bi = 7 →
        unpackStep s c = .next (transitions 7
          { s with
            fno := if 15 ≤ c.bc ∧ c.bc ≤ 14 + c.ln.toNat then s.fno.writeByte (c.bc - 15) b else s.fno
            plo := if 19 + c.ln.toNat ≤ c.bc then s.plo.writeByte (c.bc - 19 - c.ln.toNat) b else s.plo }
          { c with
            sh := 0, bi := 0, bc := c.bc + 1, bp := bp', ci := ci'
            mm := if c.bc ≤ 12 ∧ b ≠ Config.magic.getD c.bc 0 then true else c.mm
            ld := if c.bc = 13 then b.setWidth 32 else c.ld
            ln := if c.bc = 14 then b.setWidth 32 else c.ln
            lp := if 15 + c.ln.toNat ≤ c.bc ∧ c.bc ≤ 18 + c.ln.toNat then
                c.lp ||| (b.setWidth 32 <<< (8 * (c.bc - 15 - c.ln.toNat)))
              else c.lp })))

/-- R160: the phases are visited in the table's order, none is revisited. -/
def Obligations.PhaseOrder : Prop :=
  ∀ (s t : State) (c c' : Cursor), c.ph.ofUnpack = true → unpackStep s c = .next t → t.cursor = some c' →
    c'.ph.ofUnpack = true ∧ c.ph.rank ≤ c'.ph.rank

/-- R170, the document's round-trip property, over every depth, filename and payload. -/
def Obligations.RoundTrip : Prop :=
  ∀ (s : State) (d n p np : Word), s.PackLegal d n p np → s.BuffersDefined n p → Fits d n p np → s.ch.wf = true →
    ∃ t u, exec .pack s = .next t ∧ t.errcode = none ∧ exec .unpack t = .next u ∧ u.errcode = none ∧
      u.upvalid = true ∧ u.upDepth = Reg.holds d ∧ u.upFnlen = Reg.holds n ∧ u.upPlen = Reg.holds p ∧
      (∀ i, i < n.toNat → u.fno.readByte i = s.fni.readByte i) ∧
      (∀ i, i < p.toNat → u.plo.readByte i = s.pli.readByte i)

/-- R173. -/
def Obligations.CorruptionDetected : Prop :=
  ∀ (s : State) (d n p np : Word), s.PackLegal d n p np → s.BuffersDefined n p → Fits d n p np → s.ch.wf = true →
    ∃ t, exec .pack s = .next t ∧
      (∀ i, i < 104 → ∃ v, t.ch.readBit i 0 = some v ∧
        ∃ u, exec .unpack { t with ch := t.ch.writeBit i 0 (!v) } = .next u ∧ u.errcode = some .magicMismatch) ∧
      (∀ b : Byte, b = 0 ∨ b = 9 →
        ∃ u, exec .unpack { t with ch := withDepthByte t.ch b } = .next u ∧ u.errcode = some .invalidBitDepth)

/-- The first sentence of R206, for every command and every error. -/
def Obligations.NonRetryable : Prop :=
  ∀ (i : Instr) (s t : State) (e : ErrKind), exec i s = .next t → t.errcode = some e →
    ∃ u, exec i t = .next u ∧ u.errcode = some e

/-- The whole-machine frame: R36, R27 to R29, R142, R235, R51, R74, and 'never written by the engine' of R22 to R26 and R31. -/
def Obligations.WhoWritesWhat : Prop :=
  (∀ (i : Instr) (s t : State), exec i s = .next t →
      s.SameInput t ∧ (i ≠ .cap → t.capres = s.capres) ∧ (i ≠ .unpack → s.SameOutput t) ∧ (i ≠ .pack → t.ch = s.ch)) ∧
    (∀ (s t : State) (c : Cursor), s.cursor = some c → engineStep s = .next t →
      s.SameInput t ∧ (c.ph ≠ .capCompute → t.capres = s.capres) ∧ (c.ph.ofUnpack = false → s.SameOutput t) ∧
        (c.ph ≠ .packPreamble → c.ph ≠ .packBody → t.ch = s.ch))

/-- R92 (R93 byte by byte), for a legal record. -/
def Obligations.SerializedLayout : Prop :=
  ∀ (fni pli : Space) (d n p : Word) (name payload : List Byte),
    legalDepth d.toNat → n.toNat ≤ 255 → name.length = n.toNat → payload.length = p.toNat →
    (∀ i, i < n.toNat → fni.readByte i = name[i]?) → (∀ i, i < p.toNat → pli.readByte i = payload[i]?) →
    (Config.magic ++ [d.setWidth 8] ++ [n.setWidth 8] ++ name ++ le32 p ++ payload).length =
        totalBytes n.toNat p.toNat ∧
      ∀ k, k < totalBytes n.toNat p.toNat → ser fni pli d n p k =
        (Config.magic ++ [d.setWidth 8] ++ [n.setWidth 8] ++ name ++ le32 p ++ payload)[k]?

/-- R12 and R69. -/
def Obligations.LengthBytes : Prop :=
  (∀ v : Word, ∃ b0 b1 b2 b3 : Byte, le32 v = [b0, b1, b2, b3] ∧ unLe32 b0 b1 b2 b3 = v ∧
      v.toNat = b0.toNat + 256 * b1.toNat + 65536 * b2.toNat + 16777216 * b3.toNat) ∧
    (∀ b0 b1 b2 b3 : Byte, le32 (unLe32 b0 b1 b2 b3) = [b0, b1, b2, b3])

/-- What R76 says of `Place` itself. That PACK and UNPACK visit the bits in increasing `j` is StepKeepsCursor, PackSteps and UnpackSteps. -/
def Obligations.PlaceOrdered : Prop :=
  ∀ d j : Nat, 1 ≤ d →
    (j < 112 → place j d = (j, 0)) ∧ (112 ≤ j → place j d = (112 + (j - 112) / d, (j - 112) % d)) ∧
    (∀ j', j < j' → (place j d).1 < (place j' d).1 ∨
      ((place j d).1 = (place j' d).1 ∧ (place j d).2 < (place j' d).2)) ∧
    (∀ j', place j d = place j' d → j = j')

/-- R77's count of channels, from R76. -/
def Obligations.UsedExact : Prop :=
  ∀ d r : Nat, 1 ≤ d → 1 ≤ r →
    (∀ j, j < 112 + 8 * r → (place j d).1 < used d r) ∧ (place (112 + 8 * r - 1) d).1 + 1 = used d r

/-- R67 for both directions. -/
def Obligations.ByteFromBits : Prop :=
  (∀ (fni pli : Space) (d n p : Word) (j : Nat) (b : Byte), ser fni pli d n p (j / 8) = some b →
      serBit fni pli d n p j = some (b.getLsbD (j % 8))) ∧
    (∀ (ch : Space) (d k : Nat) (b : Byte), streamByte ch d k = some b →
      ∀ t, t < 8 → streamBit ch d (8 * k + t) = some (b.getLsbD t))

/-- R64 and R62, in the terms of R21 (`undef` per bit). -/
def Obligations.WriteBitLaw : Prop :=
  ∀ (sp : Space) (a p : Nat) (v : Bool), sp.wf = true → p < 8 →
    (sp.writeBit a p v).readBit a p = some v ∧
    ∀ b q, q < 8 → (b ≠ a ∨ q ≠ p) → (sp.writeBit a p v).readBit b q = sp.readBit b q

/-- R181. That every WR is refused while a command runs rests on R185 and U4 (log 15, DEDUCED); that an idle engine takes a WR also before `DONE = 1` is read is log 21 (DESIGN CHOICE). -/
def Obligations.HostRegisterWrite : Prop :=
  ∀ (s : State) (reg : Nat) (v : Word) (rest : List HostMove), s.script = .wr reg v :: rest →
    (s.cursor = none →
      (reg = 0x03 → step s = .next { s with script := rest, numpix := Reg.holds v }) ∧
      (reg = 0x04 → step s = .next { s with script := rest, pkDepth := Reg.holds v }) ∧
      (reg = 0x05 → step s = .next { s with script := rest, pkFnlen := Reg.holds v }) ∧
      (reg = 0x06 → step s = .next { s with script := rest, pkPlen := Reg.holds v }) ∧
      (reg = 0x00 → step s = writeCmd v { s with script := rest }) ∧
      (reg = 0x01 ∨ reg = 0x02 ∨ reg = 0x07 ∨ reg = 0x08 ∨ reg = 0x09 ∨ reg = 0x0A →
        step s = .next { s with script := rest })) ∧
    (s.cursor ≠ none → step s = .refused .hostMoveWhileBusy)

/-- R38. -/
def Obligations.ReservedAndReadOnly : Prop :=
  ∀ (s : State) (rest : List HostMove), s.cursor = none →
    (∀ reg v, 0x0B ≤ reg → (s.script = .wr reg v :: rest ∨ s.script = .rd reg :: rest) →
      step s = .refused .reservedRegister) ∧
    (∀ reg v, (reg = 0x01 ∨ reg = 0x02 ∨ reg = 0x07 ∨ reg = 0x08 ∨ reg = 0x09 ∨ reg = 0x0A) →
      s.script = .wr reg v :: rest → step s = .next { s with script := rest }) ∧
    (∀ name a bs, (name = .fno ∨ name = .plo) → a + bs.length ≤ spaceSize s.cfg name →
      s.script = .wrm name a bs :: rest → step s = .next { s with script := rest })

/-- R180 and R33. Every value the free value could take is covered: nothing is said of an `undef` register's reply. An idle engine is one with `BUSY = 0`: that this holds also before `DONE = 1` is read is log 21 (DESIGN CHOICE). -/
def Obligations.HostRegisterRead : Prop :=
  ∀ (s : State) (reg : Nat) (rest : List HostMove), s.cursor = none → s.script = .rd reg :: rest → reg ≤ 0x0A →
    ∃ v k, step s = .next { s with script := rest, replies := s.replies ++ [.word v], fresh := k } ∧
      (reg = 0x00 → v = 0) ∧ (reg = 0x01 → v = s.statusWord) ∧ (reg = 0x02 → v = s.errcodeWord) ∧
      (reg = 0x03 → s.numpix.defined = true → v = s.numpix.val) ∧
      (reg = 0x04 → s.pkDepth.defined = true → v = s.pkDepth.val) ∧
      (reg = 0x05 → s.pkFnlen.defined = true → v = s.pkFnlen.val) ∧
      (reg = 0x06 → s.pkPlen.defined = true → v = s.pkPlen.val) ∧
      (reg = 0x07 → s.capres.defined = true → v = s.capres.val) ∧
      (reg = 0x08 → s.upDepth.defined = true → v = s.upDepth.val) ∧
      (reg = 0x09 → s.upFnlen.defined = true → v = s.upFnlen.val) ∧
      (reg = 0x0A → s.upPlen.defined = true → v = s.upPlen.val)

/-- R182; an `undef` bit of a reply is left open (R21). The fault outside the space is U3's refusal (log 14); that an idle engine takes an RDM also before `DONE = 1` is read is log 21 (DESIGN CHOICE). -/
def Obligations.HostBufferRead : Prop :=
  ∀ (s : State) (name : SpaceName) (a n : Nat) (rest : List HostMove),
    s.cursor = none → s.script = .rdm name a n :: rest →
    (a + n ≤ spaceSize s.cfg name →
      ∃ bs k, step s = .next { s with script := rest, replies := s.replies ++ [.bytes bs], fresh := k } ∧
        bs.length = n ∧
        ∀ i b q v, bs[i]? = some b → q < 8 → (s.space name).readBit (a + i) q = some v → b.getLsbD q = v) ∧
    (spaceSize s.cfg name < a + n → step s = .fault .addressOutsideSpace)

/-- R183, and R60's 'a write to one never changes a byte of another'. The fault outside the space is U3's refusal (log 14); that an idle engine takes a WRM also before `DONE = 1` is read is log 21 (DESIGN CHOICE). -/
def Obligations.HostBufferWrite : Prop :=
  ∀ (s : State) (name : SpaceName) (a : Nat) (bs : List Byte) (rest : List HostMove),
    s.cursor = none → s.script = .wrm name a bs :: rest → (s.space name).wf = true →
    (a + bs.length ≤ spaceSize s.cfg name → (name = .ch ∨ name = .fni ∨ name = .pli) →
      ∃ t, step s = .next t ∧
        t = { s with script := rest, ch := t.ch, fni := t.fni, pli := t.pli } ∧
        (∀ i, i < bs.length → (t.space name).readByte (a + i) = bs[i]?) ∧
        (∀ x q, (x < a ∨ a + bs.length ≤ x) → (t.space name).readBit x q = (s.space name).readBit x q) ∧
        (∀ other, other ≠ name → t.space other = s.space other)) ∧
    (spaceSize s.cfg name < a + bs.length → step s = .fault .addressOutsideSpace)

/-- R185 and R232; WAIT and the pause are how the model lets the engine move (log 7). -/
def Obligations.BusyHostMoves : Prop :=
  ∀ (s : State) (m : HostMove) (rest : List HostMove), s.cursor ≠ none → s.script = m :: rest →
    (∀ reg v, m = .wr reg v → step s = .refused .hostMoveWhileBusy) ∧
    (∀ name a n, m = .rdm name a n → step s = .refused .hostMoveWhileBusy) ∧
    (∀ name a bs, m = .wrm name a bs → step s = .refused .hostMoveWhileBusy) ∧
    (∀ reg, m = .rd reg → reg ≠ 0x01 → reg ≠ 0x02 → step s = .refused .hostMoveWhileBusy) ∧
    (m = .rd 0x01 → ∃ k, step s =
      .next { s with script := rest, replies := s.replies ++ [.word s.statusWord], fresh := k }) ∧
    (m = .rd 0x02 → ∃ k, step s =
      .next { s with script := rest, replies := s.replies ++ [.word s.errcodeWord], fresh := k }) ∧
    (m = .wait → step s = engineStep s) ∧
    (m = .pause → step s = engineStep { s with script := rest })

/-- R186 and R226. That only the last poll is recorded is the model's choice (log 7). -/
def Obligations.WaitEnds : Prop :=
  ∀ s : State, s.cursor = none →
    (∀ rest, s.script = .wait :: rest → s.done = true →
      ∃ k, step s = .next { s with script := rest, replies := s.replies ++ [.word s.statusWord], fresh := k }) ∧
    (∀ rest, s.script = .wait :: rest → s.done = false → step s = .next s) ∧
    (s.script = [] → step s = .next s)

/-- R184 (what every command does first) and R186. -/
def Obligations.BusyStatus : Prop :=
  ∀ (i : Instr) (s t : State) (fuel : Nat), runCommand fuel i s = .next t → t.cursor ≠ none →
    t.statusWord = (if t.upvalid = true then 9 else 1) ∧ t.errcodeWord = 0 ∧
      t.upvalid = (if i = .unpack then false else s.upvalid)

/-- R204 and R205: the block's exception entry and the ordinary end of a command. -/
def Obligations.FailAndComplete : Prop :=
  (∀ (s : State) (e : ErrKind), s.fail e = s.ended (some e) ∧ (s.fail e).errcodeWord = e.code ∧
      (s.fail e).statusWord = (if s.upvalid = true then 14 else 6)) ∧
    (∀ s : State, s.complete = s.ended none ∧ s.complete.errcodeWord = 0 ∧
      s.complete.statusWord = (if s.upvalid = true then 10 else 2)) ∧
    (∀ (s : State) (c : Cursor), s.finishUnpack c = { s with
      upvalid := true, upDepth := Reg.holds c.ld, upFnlen := Reg.holds c.ln, upPlen := Reg.holds c.lp }.ended none)

/-- The table of R34. -/
def Obligations.StatusLayout : Prop :=
  ∀ s : State, s.statusWord.getLsbD 0 = s.cursor.isSome ∧ s.statusWord.getLsbD 1 = s.done ∧
    s.statusWord.getLsbD 2 = s.err ∧ s.statusWord.getLsbD 3 = s.upvalid ∧ s.statusWord.extractLsb' 4 28 = 0

/-- R35 with the numbers of R196. -/
def Obligations.ErrorCodes : Prop :=
  (∀ s : State, s.errcodeWord = match s.errcode with
      | none => 0
      | some .capacityExceeded => 1
      | some .magicMismatch => 2
      | some .invalidBitDepth => 3
      | some .truncatedStream => 4
      | some .filenameTooLong => 5
      | some .ioFailure => 6
      | some .illegalCommand => 7) ∧
    (∀ s : State, s.errcodeWord.extractLsb' 4 28 = 0 ∧ s.started.errcodeWord = 0) ∧
    (State.reset.errcodeWord = 0)

/-- R52. The words the `undef` registers hold are the model's choice (log 1) and are not claimed. -/
def Obligations.ResetValues : Prop :=
  State.reset.statusWord = 0 ∧ State.reset.errcodeWord = 0 ∧ State.reset.cursor = none ∧
    State.reset.numpix.defined = false ∧ State.reset.pkDepth.defined = false ∧
    State.reset.pkFnlen.defined = false ∧ State.reset.pkPlen.defined = false ∧
    State.reset.capres.defined = false ∧ State.reset.OutputRegsUndef ∧
    ∀ name a q, (State.reset.space name).readBit a q = none

/-- R227 and R225. That the host's script goes on is the model's choice (log 19), and so are the words the `undef` registers hold (log 1). -/
def Obligations.ResetAnyTime : Prop :=
  ∀ (s : State) (rest : List HostMove), s.script = .reset :: rest →
    step s = .next { State.reset with cfg := s.cfg, script := rest, replies := s.replies, fresh := s.fresh }

/-- R31 and U2. That this comes before the operand checks is log 11. -/
def Obligations.NumpixTooLarge : Prop :=
  ∀ (i : Instr) (s : State) (np : Word), s.cursor = none → s.numpix = Reg.holds np →
    s.cfg.numpixMax < np.toNat → exec i s = .refused .numpixTooLarge

/-- R21 and U1. The stream of `L` channels holds `min(L, 112)` serialized bits at depth 1 and `streamBits` at depth `D`: an `undef` bit among those UNPACK comes to refuses it also where the stream ends before the boundary (log 12, DEDUCED). A PACK that does not fit is log 10. Which registers a command comes to is log 22 (DESIGN CHOICE): none behind a check that has failed. Which treatment of `undef` registers the reset state carries is log 1. -/
def Obligations.UndefOperandRefused : Prop :=
  (∀ (s : State) (np : Word), s.UnpackReady np →
      let L := streamLen np
      (∀ j, j < 104 → j < L → s.ch.readBit j 0 = none → exec .unpack s = .refused .undefOperand) ∧
      ((∀ k, k < 13 → streamByte s.ch 1 k = some (Config.magic.getD k 0)) →
        (∀ j, j < 112 → j < L → s.ch.readBit j 0 = none → exec .unpack s = .refused .undefOperand) ∧
        ∀ D : Byte, streamByte s.ch 1 13 = some D → legalDepth D.toNat →
          (∀ j, j < 8 * 15 → j < streamBits L D.toNat → streamBit s.ch D.toNat j = none →
            exec .unpack s = .refused .undefOperand) ∧
          ∀ N : Byte, streamByte s.ch D.toNat 14 = some N →
            (∀ j, j < 8 * (19 + N.toNat) → j < streamBits L D.toNat → streamBit s.ch D.toNat j = none →
              exec .unpack s = .refused .undefOperand) ∧
            ∀ b0 b1 b2 b3 : Byte,
              streamByte s.ch D.toNat (15 + N.toNat) = some b0 → streamByte s.ch D.toNat (16 + N.toNat) = some b1 →
              streamByte s.ch D.toNat (17 + N.toNat) = some b2 → streamByte s.ch D.toNat (18 + N.toNat) = some b3 →
              ∀ j, j < 8 * totalBytes N.toNat (unLe32 b0 b1 b2 b3).toNat → j < streamBits L D.toNat →
                streamBit s.ch D.toNat j = none → exec .unpack s = .refused .undefOperand)) ∧
    (∀ (s : State) (d n p np : Word), s.PackLegal d n p np → Fits d n p np → ¬ s.BuffersDefined n p →
      exec .pack s = .refused .undefOperand) ∧
    (∀ s : State, s.cfg.undefRegs = .refuse → s.cursor = none → s.numpixOver = false →
      (s.pkFnlen.defined = false → exec .cap s = .refused .undefOperand ∧ exec .pack s = .refused .undefOperand) ∧
      (∀ n, s.pkFnlen = Reg.holds n → n.toNat ≤ 255 → s.pkDepth.defined = false →
        exec .cap s = .refused .undefOperand ∧ exec .pack s = .refused .undefOperand) ∧
      (∀ n d, s.pkFnlen = Reg.holds n → n.toNat ≤ 255 → s.pkDepth = Reg.holds d → legalDepth d.toNat →
        (s.pkPlen.defined = false → exec .pack s = .refused .undefOperand) ∧
        (s.numpix.defined = false →
          exec .cap s = .refused .undefOperand ∧ exec .pack s = .refused .undefOperand)) ∧
      (s.numpix.defined = false → exec .unpack s = .refused .undefOperand))

/-- Not a rule of the spec, whose R21 and U1 refuse a command run on an `undef` operand: that each runs from reset is log 1 (DESIGN CHOICE). With the words log 1 names, R122, R132 and R168 give the outcomes. -/
def Obligations.ResetRuns : Prop :=
  (∃ t, exec .cap State.reset = .next t ∧ t.errcode = some .invalidBitDepth) ∧
    (∃ t, exec .pack State.reset = .next t ∧ t.errcode = some .invalidBitDepth) ∧
    (∃ t, exec .unpack State.reset = .next t ∧ t.errcode = some .truncatedStream)

/-- The model's representation of R60's spaces: equal contents are equal data. From every state, reachable or not. -/
def Obligations.StepKeepsCanonical : Prop :=
  ∀ s t : State, s.Canonical → step s = .next t → t.Canonical

/-- The two sentences after R34's table, R35, R202. -/
def Obligations.StepKeepsFlags : Prop :=
  ∀ s t : State, s.FlagsOk → step s = .next t → t.FlagsOk

/-- R50's invariant, with the phase boundaries of R136 and R152 that make it inductive. That `LN` is 0 until byte 14 completes is the model's own value (log 20), not the spec's. -/
def Obligations.StepKeepsCursor : Prop :=
  ∀ s t : State, s.CursorOk → step s = .next t → t.CursorOk

/-- R66 (no address leaves its space), R27 to R29 and R167 (the output record), and the three invariants above together, with the value of `LN` that log 20 names. -/
def Obligations.StepKeepsInv : Prop :=
  ∀ s t : State, s.Inv → step s = .next t → t.Inv

/-- The base case. -/
def Obligations.ResetInv : Prop :=
  State.reset.Inv

/-- The pseudocode of R160 case by case, from every cursor: the passes the model allows are enough for every chain of cases. R167: after an error all of UPO is `undef`. -/
def Obligations.TransitionsRepeat : Prop :=
  ∀ (s : State) (c : Cursor),
    (c.ph = .readingMagic → c.bc = 13 → transitions 7 s c =
      if c.mm = true then s.dropOutput.ended (some .magicMismatch)
      else transitions 7 s { c with ph := .readingBitDepth }) ∧
    (c.ph = .readingBitDepth → c.bc = 14 → transitions 7 s c =
      if c.ld.toNat < 1 ∨ 8 < c.ld.toNat then s.dropOutput.ended (some .invalidBitDepth)
      else transitions 7 s { c with ad := c.ld.toNat, ph := .readingFilenameLength }) ∧
    (c.ph = .readingFilenameLength → c.bc = 15 →
      transitions 7 s c = transitions 7 s { c with ph := .readingFilename }) ∧
    (c.ph = .readingFilename → c.bc = 15 + c.ln.toNat →
      transitions 7 s c = transitions 7 s { c with ph := .readingPayloadLength }) ∧
    (c.ph = .readingPayloadLength → c.bc = 19 + c.ln.toNat →
      transitions 7 s c = transitions 7 s { c with ph := .readingPayload }) ∧
    (c.ph = .readingPayload → c.bc = 19 + c.ln.toNat + c.lp.toNat → transitions 7 s c = { s with
      upDepth := Reg.holds c.ld, upFnlen := Reg.holds c.ln, upPlen := Reg.holds c.lp, upvalid := true }.ended none) ∧
    ((c.ph, c.bc) ≠ (.readingMagic, 13) → (c.ph, c.bc) ≠ (.readingBitDepth, 14) →
      (c.ph, c.bc) ≠ (.readingFilenameLength, 15) → (c.ph, c.bc) ≠ (.readingFilename, 15 + c.ln.toNat) →
      (c.ph, c.bc) ≠ (.readingPayloadLength, 19 + c.ln.toNat) →
      (c.ph, c.bc) ≠ (.readingPayload, 19 + c.ln.toNat + c.lp.toNat) →
      transitions 7 s c = { s with cursor := some c })
end

