-- ==== Sys2Proof/Laws/Memory.lean ====
section
/-! SUPPORT. The laws of memory and of byte spaces: a read after a write, every operation keeps the canonical form, and two
canonical memories that read alike are equal. -/

namespace Sys2Proof.Machine

@[simp] theorem Memory.read_nil (a : Nat) : Memory.read [] a = Memory.unlisted := rfl

@[simp] theorem Memory.wfFrom_nil (lo : Nat) : Memory.wfFrom lo [] = true := rfl

theorem Memory.wfFrom_cons {lo a : Nat} {v : Byte} {m : Memory} :
    Memory.wfFrom lo ((a, v) :: m) = true ↔ lo ≤ a ∧ v ≠ Memory.unlisted ∧ Memory.wfFrom (a + 1) m = true := by
  simp [Memory.wfFrom, and_assoc]

theorem Memory.wfFrom_mono {lo lo' : Nat} {m : Memory} (h : Memory.wfFrom lo m = true) (hle : lo' ≤ lo) :
    Memory.wfFrom lo' m = true := by
  cases m with
  | nil => rfl
  | cons c m =>
    obtain ⟨a, v⟩ := c
    rw [Memory.wfFrom_cons] at h ⊢
    exact ⟨hle.trans h.1, h.2⟩

/-- Below the first address of a canonical memory nothing is listed. -/
theorem Memory.read_below {lo a : Nat} {m : Memory} (h : Memory.wfFrom lo m = true) (ha : a < lo) :
    m.read a = Memory.unlisted := by
  induction m generalizing lo with
  | nil => rfl
  | cons c m ih =>
    obtain ⟨b, v⟩ := c
    rw [Memory.wfFrom_cons] at h
    have hb : b ≠ a := by omega
    simp only [Memory.read, hb, if_false]
    exact ih h.2.2 (by omega)

theorem Memory.write_wfFrom {lo a : Nat} {m : Memory} (v : Byte) (h : Memory.wfFrom lo m = true) (ha : lo ≤ a) :
    Memory.wfFrom lo (m.write a v) = true := by
  induction m generalizing lo with
  | nil =>
    by_cases hv : v = Memory.unlisted
    · simp [Memory.write, hv]
    · simp [Memory.write, hv, Memory.wfFrom, ha]
  | cons c m ih =>
    obtain ⟨b, w⟩ := c
    rw [Memory.wfFrom_cons] at h
    obtain ⟨hlo, hw, hm⟩ := h
    unfold Memory.write
    split_ifs with h1 h2 h3 h4
    · exact Memory.wfFrom_cons.2 ⟨hlo, hw, hm⟩
    · exact Memory.wfFrom_cons.2 ⟨ha, h2, Memory.wfFrom_cons.2 ⟨by omega, hw, hm⟩⟩
    · exact Memory.wfFrom_mono hm (by omega)
    · exact Memory.wfFrom_cons.2 ⟨ha, h4, h3 ▸ hm⟩
    · exact Memory.wfFrom_cons.2 ⟨hlo, hw, ih hm (by omega)⟩

/-- A write keeps the canonical form. -/
theorem Memory.write_wf {m : Memory} (a : Nat) (v : Byte) (h : m.wf = true) : (m.write a v).wf = true :=
  Memory.write_wfFrom v h (Nat.zero_le a)

/-- A read after a write to the same address gives the byte written. -/
theorem Memory.read_write_same {lo : Nat} {m : Memory} (a : Nat) (v : Byte) (h : Memory.wfFrom lo m = true) :
    (m.write a v).read a = v := by
  induction m generalizing lo with
  | nil =>
    by_cases hv : v = Memory.unlisted
    · simp [Memory.write, hv]
    · simp [Memory.write, hv, Memory.read]
  | cons c m ih =>
    obtain ⟨b, w⟩ := c
    rw [Memory.wfFrom_cons] at h
    obtain ⟨-, hw, hm⟩ := h
    unfold Memory.write
    split_ifs with h1 h2 h3 h4
    · have hb : b ≠ a := by omega
      simp only [Memory.read, hb, if_false, h2]
      exact Memory.read_below hm (by omega)
    · simp [Memory.read]
    · rw [h4]
      exact Memory.read_below hm (by omega)
    · simp [Memory.read]
    · have hb : b ≠ a := fun e => h3 e.symm
      simp only [Memory.read, hb, if_false]
      exact ih hm

/-- A write leaves every other address alone. -/
theorem Memory.read_write_other {m : Memory} {a b : Nat} (v : Byte) (hab : b ≠ a) :
    (m.write a v).read b = m.read b := by
  induction m with
  | nil =>
    by_cases hv : v = Memory.unlisted
    · simp [Memory.write, hv]
    · simp [Memory.write, hv, Memory.read, Ne.symm hab]
  | cons c m ih =>
    obtain ⟨x, w⟩ := c
    unfold Memory.write
    split_ifs with h1 h2 h3 h4
    · rfl
    · simp [Memory.read, Ne.symm hab]
    · have hx : x ≠ b := by rw [← h3]; exact Ne.symm hab
      simp [Memory.read, hx]
    · have hx : x ≠ b := by rw [← h3]; exact Ne.symm hab
      simp [Memory.read, hx, Ne.symm hab]
    · simp only [Memory.read]
      split_ifs
      · rfl
      · exact ih

theorem Memory.mask_wfFrom {lo : Nat} (keep : Nat → Byte) {m : Memory} (h : Memory.wfFrom lo m = true) :
    Memory.wfFrom lo (Memory.mask keep m) = true := by
  induction m generalizing lo with
  | nil => rfl
  | cons c m ih =>
    obtain ⟨a, v⟩ := c
    rw [Memory.wfFrom_cons] at h
    unfold Memory.mask
    split_ifs with h1
    · exact Memory.wfFrom_mono (ih h.2.2) (by omega)
    · exact Memory.wfFrom_cons.2 ⟨h.1, h1, ih h.2.2⟩

/-- Masking keeps the canonical form. -/
theorem Memory.mask_wf (keep : Nat → Byte) {m : Memory} (h : m.wf = true) : (Memory.mask keep m).wf = true :=
  Memory.mask_wfFrom keep h

/-- A masked memory reads as the mask of what it read. -/
theorem Memory.read_mask (keep : Nat → Byte) {lo : Nat} {m : Memory} (h : Memory.wfFrom lo m = true) (a : Nat) :
    (Memory.mask keep m).read a = m.read a &&& keep a := by
  induction m generalizing lo with
  | nil => simp [Memory.mask, Memory.unlisted]
  | cons c m ih =>
    obtain ⟨b, v⟩ := c
    rw [Memory.wfFrom_cons] at h
    have ih' := ih h.2.2
    by_cases hb : b = a
    · subst hb
      unfold Memory.mask
      split_ifs with h1
      · rw [ih', Memory.read_below h.2.2 (by omega)]
        simp [Memory.read, h1, Memory.unlisted]
      · simp [Memory.read]
    · unfold Memory.mask
      split_ifs with h1
      · simp only [Memory.read, hb, if_false]
        exact ih'
      · simp only [Memory.read, hb, if_false]
        exact ih'

/-- Two canonical memories that read alike are equal. -/
theorem Memory.ext_wfFrom {lo : Nat} {m m' : Memory} (h : Memory.wfFrom lo m = true) (h' : Memory.wfFrom lo m' = true)
    (hr : ∀ a, m.read a = m'.read a) : m = m' := by
  induction m generalizing lo m' with
  | nil =>
    cases m' with
    | nil => rfl
    | cons c m' =>
      obtain ⟨a, v⟩ := c
      rw [Memory.wfFrom_cons] at h'
      have := hr a
      simp [Memory.read] at this
      exact absurd this.symm h'.2.1
  | cons c m ih =>
    obtain ⟨a, v⟩ := c
    cases m' with
    | nil =>
      rw [Memory.wfFrom_cons] at h
      have := hr a
      simp [Memory.read] at this
      exact absurd this h.2.1
    | cons c' m' =>
      obtain ⟨b, w⟩ := c'
      rw [Memory.wfFrom_cons] at h h'
      have hab : a = b := by
        rcases Nat.lt_trichotomy a b with hlt | heq | hgt
        · have e := hr a
          have hb : b ≠ a := by omega
          simp only [Memory.read, if_true, hb, if_false, Memory.read_below h'.2.2 (show a < b + 1 by omega)] at e
          exact absurd e h.2.1
        · exact heq
        · have e := hr b
          have hb : a ≠ b := by omega
          simp only [Memory.read, if_true, hb, if_false, Memory.read_below h.2.2 (show b < a + 1 by omega)] at e
          exact absurd e.symm h'.2.1
      subst hab
      have hvw : v = w := by simpa [Memory.read] using hr a
      subst hvw
      have ht : m = m' := by
        refine ih h.2.2 h'.2.2 fun x => ?_
        by_cases hx : a = x
        · subst hx
          rw [Memory.read_below h.2.2 (by omega), Memory.read_below h'.2.2 (by omega)]
        · simpa [Memory.read, hx] using hr x
      rw [ht]

/-- Two canonical memories that read alike are equal. -/
theorem Memory.ext_wf {m m' : Memory} (h : m.wf = true) (h' : m'.wf = true) (hr : ∀ a, m.read a = m'.read a) :
    m = m' :=
  Memory.ext_wfFrom h h' hr

/-- The canonical form of a space, read by read: a bit that is not known is 0. -/
theorem Space.wf_iff {sp : Space} :
    sp.wf = true ↔ sp.bits.wf = true ∧ sp.known.wf = true ∧ ∀ a, sp.bits.read a &&& ~~~(sp.known.read a) = 0#8 := by
  have key : ∀ (m : Memory) (k : Nat → Byte) (lo : Nat), Memory.wfFrom lo m = true →
      ((m.all fun c => decide (c.2 &&& ~~~(k c.1) = 0#8)) = true ↔ ∀ a, m.read a &&& ~~~(k a) = 0#8) := by
    intro m k
    induction m with
    | nil => intro lo _; simp [Memory.unlisted]
    | cons c m ih =>
      intro lo h
      obtain ⟨b, v⟩ := c
      rw [Memory.wfFrom_cons] at h
      rw [List.all_cons, Bool.and_eq_true, ih _ h.2.2]
      constructor
      · rintro ⟨h1, h2⟩ a
        by_cases hb : b = a
        · subst hb; simpa [Memory.read] using h1
        · simpa [Memory.read, hb] using h2 a
      · intro hall
        refine ⟨by simpa [Memory.read] using hall b, fun a => ?_⟩
        by_cases hb : b = a
        · subst hb
          rw [Memory.read_below h.2.2 (by omega)]
          simp [Memory.unlisted]
        · simpa [Memory.read, hb] using hall a
  simp only [Space.wf, Bool.and_eq_true, and_assoc]
  constructor
  · rintro ⟨h1, h2, h3⟩
    exact ⟨h1, h2, (key _ _ 0 h1).1 h3⟩
  · rintro ⟨h1, h2, h3⟩
    exact ⟨h1, h2, (key _ _ 0 h1).2 h3⟩

/-- Two canonical spaces with the same bits and the same defined bits are equal. -/
theorem Space.ext_wf {sp sp' : Space} (h : sp.wf = true) (h' : sp'.wf = true)
    (hb : ∀ a, sp.bits.read a = sp'.bits.read a) (hk : ∀ a, sp.known.read a = sp'.known.read a) : sp = sp' := by
  rw [Space.wf_iff] at h h'
  cases sp; cases sp'
  simp only [Space.mk.injEq]
  exact ⟨Memory.ext_wf h.1 h'.1 hb, Memory.ext_wf h.2.1 h'.2.1 hk⟩

@[simp] theorem Space.undef_wf : Space.undef.wf = true := rfl

theorem setBit_getLsbD (b : Byte) (p q : Nat) (v : Bool) (hq : q < 8) :
    (setBit b p v).getLsbD q = if q = p then v else b.getLsbD q := by
  have hone : ∀ k : Nat, (1#8).getLsbD k = decide (k = 0) := by intro k; simp
  have hshift : (1#8 <<< p).getLsbD q = decide (q = p) := by
    rw [BitVec.getLsbD_shiftLeft, hone]
    by_cases h : q = p
    · subst h; simp [hq]
    · by_cases hlt : q < p
      · simp [hlt, h]
      · have : q - p ≠ 0 := by omega
        simp [this, h]
  have hnew : (if v then 1#8 <<< p else 0#8).getLsbD q = (v && decide (q = p)) := by
    cases v with
    | false => simp
    | true => rw [if_pos rfl, hshift, Bool.true_and]
  unfold setBit
  rw [BitVec.getLsbD_or, BitVec.getLsbD_and, BitVec.getLsbD_not, hshift, hnew]
  by_cases h : q = p <;> simp [h, hq]

/-- Making a bit 1 in `known` covers what the same bit holds in `bits`. -/
theorem setBit_covered (b k : Byte) (p : Nat) (v : Bool) (h : b &&& ~~~k = 0#8) :
    setBit b p v &&& ~~~(setBit k p true) = 0#8 := by
  have hbit : ∀ q, q < 8 → (b.getLsbD q && !k.getLsbD q) = false := by
    intro q hq
    have e := congrArg (fun x => BitVec.getLsbD x q) h
    simpa [hq] using e
  apply BitVec.eq_of_getLsbD_eq
  intro q hq
  rw [BitVec.getLsbD_and, BitVec.getLsbD_not, setBit_getLsbD _ _ _ _ hq, setBit_getLsbD _ _ _ _ hq]
  by_cases hqp : q = p
  · simp [hqp]
  · simpa [hqp, hq] using hbit q hq

/-- `WriteBit` keeps the canonical form. -/
theorem Space.writeBit_wf {sp : Space} (a p : Nat) (v : Bool) (h : sp.wf = true) : (sp.writeBit a p v).wf = true := by
  rw [Space.wf_iff] at h ⊢
  obtain ⟨hb, hk, hc⟩ := h
  refine ⟨Memory.write_wf _ _ hb, Memory.write_wf _ _ hk, fun x => ?_⟩
  simp only [Space.writeBit]
  by_cases hx : x = a
  · subst hx
    rw [Memory.read_write_same _ _ hb, Memory.read_write_same _ _ hk]
    exact setBit_covered _ _ _ _ (hc x)
  · rw [Memory.read_write_other _ hx, Memory.read_write_other _ hx]
    exact hc x

/-- `MemWrite` keeps the canonical form. -/
theorem Space.writeByte_wf {sp : Space} (a : Nat) (v : Byte) (h : sp.wf = true) : (sp.writeByte a v).wf = true := by
  rw [Space.wf_iff] at h ⊢
  obtain ⟨hb, hk, hc⟩ := h
  refine ⟨Memory.write_wf _ _ hb, Memory.write_wf _ _ hk, fun x => ?_⟩
  simp only [Space.writeByte]
  by_cases hx : x = a
  · subst hx
    rw [Memory.read_write_same _ _ hb, Memory.read_write_same _ _ hk]
    have hff : ~~~(0xFF#8) = 0#8 := by decide
    rw [hff, BitVec.and_zero]
  · rw [Memory.read_write_other _ hx, Memory.read_write_other _ hx]
    exact hc x

/-- Consecutive writes keep the canonical form. -/
theorem Space.writeBytes_wf {sp : Space} (a : Nat) (bs : List Byte) (h : sp.wf = true) :
    (sp.writeBytes a bs).wf = true := by
  induction bs generalizing sp a with
  | nil => exact h
  | cons b bs ih => exact ih (a + 1) (Space.writeByte_wf a b h)

/-- Writing bytes makes no cell outside them defined or `undef`. -/
theorem Space.writeBytes_known_other (sp : Space) (a x : Nat) (bs : List Byte) (h : x < a ∨ a + bs.length ≤ x) :
    (sp.writeBytes a bs).known.read x = sp.known.read x := by
  induction bs generalizing sp a with
  | nil => rfl
  | cons b bs ih =>
    simp only [List.length_cons] at h
    rw [Space.writeBytes, ih _ _ (by omega)]
    exact Memory.read_write_other _ (by omega)

/-- `CapacityExceeded` keeps the canonical form of the channel memory. -/
theorem Space.spoil_wf {sp : Space} (len d : Nat) (h : sp.wf = true) : (sp.spoil len d).wf = true := by
  rw [Space.wf_iff] at h ⊢
  obtain ⟨hb, hk, hc⟩ := h
  refine ⟨Memory.mask_wf _ hb, Memory.mask_wf _ hk, fun x => ?_⟩
  simp only [Space.spoil]
  rw [Memory.read_mask _ hb, Memory.read_mask _ hk]
  apply BitVec.eq_of_getLsbD_eq
  intro q hq
  have e := congrArg (fun y => BitVec.getLsbD y q) (hc x)
  simp only [BitVec.getLsbD_and, BitVec.getLsbD_not, hq, decide_true, Bool.true_and] at e ⊢
  revert e
  cases (sp.bits.read x).getLsbD q <;> cases (sp.known.read x).getLsbD q <;>
    cases (survivors len d x).getLsbD q <;> simp

/-- A host write of bytes keeps the canonical form of every space. -/
theorem State.hostWriteBytes_wf (s : State) (name target : SpaceName) (a : Nat) (bs : List Byte)
    (h : (s.space target).wf = true) : ((s.hostWriteBytes name a bs).space target).wf = true := by
  cases name <;> cases target <;> first | exact h | exact Space.writeBytes_wf a bs h

/-- Every space of the reset state is canonical. -/
theorem State.reset_space_wf (name : SpaceName) : (State.reset.space name).wf = true := by
  cases name <;> rfl

end Sys2Proof.Machine
end

