-- ==== Sys2Proof/Laws/State.lean ====
section
/-! SUPPORT. What each named update of the state does to each field, one lemma per field per update, so that no proof unfolds a
record update. -/

namespace Sys2Proof.Machine

@[simp] theorem State.started_cfg (s : State) : s.started.cfg = s.cfg := rfl

@[simp] theorem State.started_numpix (s : State) : s.started.numpix = s.numpix := rfl

@[simp] theorem State.started_pkDepth (s : State) : s.started.pkDepth = s.pkDepth := rfl

@[simp] theorem State.started_pkFnlen (s : State) : s.started.pkFnlen = s.pkFnlen := rfl

@[simp] theorem State.started_pkPlen (s : State) : s.started.pkPlen = s.pkPlen := rfl

@[simp] theorem State.started_capres (s : State) : s.started.capres = s.capres := rfl

@[simp] theorem State.started_upDepth (s : State) : s.started.upDepth = s.upDepth := rfl

@[simp] theorem State.started_upFnlen (s : State) : s.started.upFnlen = s.upFnlen := rfl

@[simp] theorem State.started_upPlen (s : State) : s.started.upPlen = s.upPlen := rfl

@[simp] theorem State.started_done (s : State) : s.started.done = false := rfl

@[simp] theorem State.started_err (s : State) : s.started.err = false := rfl

@[simp] theorem State.started_upvalid (s : State) : s.started.upvalid = s.upvalid := rfl

@[simp] theorem State.started_errcode (s : State) : s.started.errcode = none := rfl

@[simp] theorem State.started_ch (s : State) : s.started.ch = s.ch := rfl

@[simp] theorem State.started_fni (s : State) : s.started.fni = s.fni := rfl

@[simp] theorem State.started_pli (s : State) : s.started.pli = s.pli := rfl

@[simp] theorem State.started_fno (s : State) : s.started.fno = s.fno := rfl

@[simp] theorem State.started_plo (s : State) : s.started.plo = s.plo := rfl

@[simp] theorem State.started_cursor (s : State) : s.started.cursor = s.cursor := rfl

@[simp] theorem State.started_script (s : State) : s.started.script = s.script := rfl

@[simp] theorem State.started_replies (s : State) : s.started.replies = s.replies := rfl

@[simp] theorem State.started_fresh (s : State) : s.started.fresh = s.fresh := rfl

@[simp] theorem State.fail_cfg (s : State) (e : ErrKind) : (s.fail e).cfg = s.cfg := rfl

@[simp] theorem State.fail_numpix (s : State) (e : ErrKind) : (s.fail e).numpix = s.numpix := rfl

@[simp] theorem State.fail_pkDepth (s : State) (e : ErrKind) : (s.fail e).pkDepth = s.pkDepth := rfl

@[simp] theorem State.fail_pkFnlen (s : State) (e : ErrKind) : (s.fail e).pkFnlen = s.pkFnlen := rfl

@[simp] theorem State.fail_pkPlen (s : State) (e : ErrKind) : (s.fail e).pkPlen = s.pkPlen := rfl

@[simp] theorem State.fail_capres (s : State) (e : ErrKind) : (s.fail e).capres = s.capres := rfl

@[simp] theorem State.fail_upDepth (s : State) (e : ErrKind) : (s.fail e).upDepth = s.upDepth := rfl

@[simp] theorem State.fail_upFnlen (s : State) (e : ErrKind) : (s.fail e).upFnlen = s.upFnlen := rfl

@[simp] theorem State.fail_upPlen (s : State) (e : ErrKind) : (s.fail e).upPlen = s.upPlen := rfl

@[simp] theorem State.fail_done (s : State) (e : ErrKind) : (s.fail e).done = true := rfl

@[simp] theorem State.fail_err (s : State) (e : ErrKind) : (s.fail e).err = true := rfl

@[simp] theorem State.fail_upvalid (s : State) (e : ErrKind) : (s.fail e).upvalid = s.upvalid := rfl

@[simp] theorem State.fail_errcode (s : State) (e : ErrKind) : (s.fail e).errcode = some e := rfl

@[simp] theorem State.fail_ch (s : State) (e : ErrKind) : (s.fail e).ch = s.ch := rfl

@[simp] theorem State.fail_fni (s : State) (e : ErrKind) : (s.fail e).fni = s.fni := rfl

@[simp] theorem State.fail_pli (s : State) (e : ErrKind) : (s.fail e).pli = s.pli := rfl

@[simp] theorem State.fail_fno (s : State) (e : ErrKind) : (s.fail e).fno = s.fno := rfl

@[simp] theorem State.fail_plo (s : State) (e : ErrKind) : (s.fail e).plo = s.plo := rfl

@[simp] theorem State.fail_cursor (s : State) (e : ErrKind) : (s.fail e).cursor = none := rfl

@[simp] theorem State.fail_script (s : State) (e : ErrKind) : (s.fail e).script = s.script := rfl

@[simp] theorem State.fail_replies (s : State) (e : ErrKind) : (s.fail e).replies = s.replies := rfl

@[simp] theorem State.fail_fresh (s : State) (e : ErrKind) : (s.fail e).fresh = s.fresh := rfl

@[simp] theorem State.complete_cfg (s : State) : s.complete.cfg = s.cfg := rfl

@[simp] theorem State.complete_numpix (s : State) : s.complete.numpix = s.numpix := rfl

@[simp] theorem State.complete_pkDepth (s : State) : s.complete.pkDepth = s.pkDepth := rfl

@[simp] theorem State.complete_pkFnlen (s : State) : s.complete.pkFnlen = s.pkFnlen := rfl

@[simp] theorem State.complete_pkPlen (s : State) : s.complete.pkPlen = s.pkPlen := rfl

@[simp] theorem State.complete_capres (s : State) : s.complete.capres = s.capres := rfl

@[simp] theorem State.complete_upDepth (s : State) : s.complete.upDepth = s.upDepth := rfl

@[simp] theorem State.complete_upFnlen (s : State) : s.complete.upFnlen = s.upFnlen := rfl

@[simp] theorem State.complete_upPlen (s : State) : s.complete.upPlen = s.upPlen := rfl

@[simp] theorem State.complete_done (s : State) : s.complete.done = true := rfl

@[simp] theorem State.complete_err (s : State) : s.complete.err = false := rfl

@[simp] theorem State.complete_upvalid (s : State) : s.complete.upvalid = s.upvalid := rfl

@[simp] theorem State.complete_errcode (s : State) : s.complete.errcode = none := rfl

@[simp] theorem State.complete_ch (s : State) : s.complete.ch = s.ch := rfl

@[simp] theorem State.complete_fni (s : State) : s.complete.fni = s.fni := rfl

@[simp] theorem State.complete_pli (s : State) : s.complete.pli = s.pli := rfl

@[simp] theorem State.complete_fno (s : State) : s.complete.fno = s.fno := rfl

@[simp] theorem State.complete_plo (s : State) : s.complete.plo = s.plo := rfl

@[simp] theorem State.complete_cursor (s : State) : s.complete.cursor = none := rfl

@[simp] theorem State.complete_script (s : State) : s.complete.script = s.script := rfl

@[simp] theorem State.complete_replies (s : State) : s.complete.replies = s.replies := rfl

@[simp] theorem State.complete_fresh (s : State) : s.complete.fresh = s.fresh := rfl

@[simp] theorem State.dropOutput_cfg (s : State) : s.dropOutput.cfg = s.cfg := rfl

@[simp] theorem State.dropOutput_numpix (s : State) : s.dropOutput.numpix = s.numpix := rfl

@[simp] theorem State.dropOutput_pkDepth (s : State) : s.dropOutput.pkDepth = s.pkDepth := rfl

@[simp] theorem State.dropOutput_pkFnlen (s : State) : s.dropOutput.pkFnlen = s.pkFnlen := rfl

@[simp] theorem State.dropOutput_pkPlen (s : State) : s.dropOutput.pkPlen = s.pkPlen := rfl

@[simp] theorem State.dropOutput_capres (s : State) : s.dropOutput.capres = s.capres := rfl

@[simp] theorem State.dropOutput_upDepth (s : State) : s.dropOutput.upDepth = Reg.undef := rfl

@[simp] theorem State.dropOutput_upFnlen (s : State) : s.dropOutput.upFnlen = Reg.undef := rfl

@[simp] theorem State.dropOutput_upPlen (s : State) : s.dropOutput.upPlen = Reg.undef := rfl

@[simp] theorem State.dropOutput_done (s : State) : s.dropOutput.done = s.done := rfl

@[simp] theorem State.dropOutput_err (s : State) : s.dropOutput.err = s.err := rfl

@[simp] theorem State.dropOutput_upvalid (s : State) : s.dropOutput.upvalid = false := rfl

@[simp] theorem State.dropOutput_errcode (s : State) : s.dropOutput.errcode = s.errcode := rfl

@[simp] theorem State.dropOutput_ch (s : State) : s.dropOutput.ch = s.ch := rfl

@[simp] theorem State.dropOutput_fni (s : State) : s.dropOutput.fni = s.fni := rfl

@[simp] theorem State.dropOutput_pli (s : State) : s.dropOutput.pli = s.pli := rfl

@[simp] theorem State.dropOutput_fno (s : State) : s.dropOutput.fno = Space.undef := rfl

@[simp] theorem State.dropOutput_plo (s : State) : s.dropOutput.plo = Space.undef := rfl

@[simp] theorem State.dropOutput_cursor (s : State) : s.dropOutput.cursor = s.cursor := rfl

@[simp] theorem State.dropOutput_script (s : State) : s.dropOutput.script = s.script := rfl

@[simp] theorem State.dropOutput_replies (s : State) : s.dropOutput.replies = s.replies := rfl

@[simp] theorem State.dropOutput_fresh (s : State) : s.dropOutput.fresh = s.fresh := rfl

@[simp] theorem State.capFail_cfg (s : State) (e : ErrKind) : (s.capFail e).cfg = s.cfg := rfl

@[simp] theorem State.capFail_numpix (s : State) (e : ErrKind) : (s.capFail e).numpix = s.numpix := rfl

@[simp] theorem State.capFail_pkDepth (s : State) (e : ErrKind) : (s.capFail e).pkDepth = s.pkDepth := rfl

@[simp] theorem State.capFail_pkFnlen (s : State) (e : ErrKind) : (s.capFail e).pkFnlen = s.pkFnlen := rfl

@[simp] theorem State.capFail_pkPlen (s : State) (e : ErrKind) : (s.capFail e).pkPlen = s.pkPlen := rfl

@[simp] theorem State.capFail_capres (s : State) (e : ErrKind) : (s.capFail e).capres = Reg.undef := rfl

@[simp] theorem State.capFail_upDepth (s : State) (e : ErrKind) : (s.capFail e).upDepth = s.upDepth := rfl

@[simp] theorem State.capFail_upFnlen (s : State) (e : ErrKind) : (s.capFail e).upFnlen = s.upFnlen := rfl

@[simp] theorem State.capFail_upPlen (s : State) (e : ErrKind) : (s.capFail e).upPlen = s.upPlen := rfl

@[simp] theorem State.capFail_done (s : State) (e : ErrKind) : (s.capFail e).done = true := rfl

@[simp] theorem State.capFail_err (s : State) (e : ErrKind) : (s.capFail e).err = true := rfl

@[simp] theorem State.capFail_upvalid (s : State) (e : ErrKind) : (s.capFail e).upvalid = s.upvalid := rfl

@[simp] theorem State.capFail_errcode (s : State) (e : ErrKind) : (s.capFail e).errcode = some e := rfl

@[simp] theorem State.capFail_ch (s : State) (e : ErrKind) : (s.capFail e).ch = s.ch := rfl

@[simp] theorem State.capFail_fni (s : State) (e : ErrKind) : (s.capFail e).fni = s.fni := rfl

@[simp] theorem State.capFail_pli (s : State) (e : ErrKind) : (s.capFail e).pli = s.pli := rfl

@[simp] theorem State.capFail_fno (s : State) (e : ErrKind) : (s.capFail e).fno = s.fno := rfl

@[simp] theorem State.capFail_plo (s : State) (e : ErrKind) : (s.capFail e).plo = s.plo := rfl

@[simp] theorem State.capFail_cursor (s : State) (e : ErrKind) : (s.capFail e).cursor = none := rfl

@[simp] theorem State.capFail_script (s : State) (e : ErrKind) : (s.capFail e).script = s.script := rfl

@[simp] theorem State.capFail_replies (s : State) (e : ErrKind) : (s.capFail e).replies = s.replies := rfl

@[simp] theorem State.capFail_fresh (s : State) (e : ErrKind) : (s.capFail e).fresh = s.fresh := rfl

@[simp] theorem State.packOverflow_cfg (s : State) (len d : Nat) : (s.packOverflow len d).cfg = s.cfg := rfl

@[simp] theorem State.packOverflow_numpix (s : State) (len d : Nat) : (s.packOverflow len d).numpix = s.numpix := rfl

@[simp] theorem State.packOverflow_pkDepth (s : State) (len d : Nat) : (s.packOverflow len d).pkDepth = s.pkDepth := rfl

@[simp] theorem State.packOverflow_pkFnlen (s : State) (len d : Nat) : (s.packOverflow len d).pkFnlen = s.pkFnlen := rfl

@[simp] theorem State.packOverflow_pkPlen (s : State) (len d : Nat) : (s.packOverflow len d).pkPlen = s.pkPlen := rfl

@[simp] theorem State.packOverflow_capres (s : State) (len d : Nat) : (s.packOverflow len d).capres = s.capres := rfl

@[simp] theorem State.packOverflow_upDepth (s : State) (len d : Nat) : (s.packOverflow len d).upDepth = s.upDepth := rfl

@[simp] theorem State.packOverflow_upFnlen (s : State) (len d : Nat) : (s.packOverflow len d).upFnlen = s.upFnlen := rfl

@[simp] theorem State.packOverflow_upPlen (s : State) (len d : Nat) : (s.packOverflow len d).upPlen = s.upPlen := rfl

@[simp] theorem State.packOverflow_done (s : State) (len d : Nat) : (s.packOverflow len d).done = true := rfl

@[simp] theorem State.packOverflow_err (s : State) (len d : Nat) : (s.packOverflow len d).err = true := rfl

@[simp] theorem State.packOverflow_upvalid (s : State) (len d : Nat) : (s.packOverflow len d).upvalid = s.upvalid := rfl

@[simp] theorem State.packOverflow_errcode (s : State) (len d : Nat) : (s.packOverflow len d).errcode = some .capacityExceeded := rfl

@[simp] theorem State.packOverflow_ch (s : State) (len d : Nat) : (s.packOverflow len d).ch = s.ch.spoil len d := rfl

@[simp] theorem State.packOverflow_fni (s : State) (len d : Nat) : (s.packOverflow len d).fni = s.fni := rfl

@[simp] theorem State.packOverflow_pli (s : State) (len d : Nat) : (s.packOverflow len d).pli = s.pli := rfl

@[simp] theorem State.packOverflow_fno (s : State) (len d : Nat) : (s.packOverflow len d).fno = s.fno := rfl

@[simp] theorem State.packOverflow_plo (s : State) (len d : Nat) : (s.packOverflow len d).plo = s.plo := rfl

@[simp] theorem State.packOverflow_cursor (s : State) (len d : Nat) : (s.packOverflow len d).cursor = none := rfl

@[simp] theorem State.packOverflow_script (s : State) (len d : Nat) : (s.packOverflow len d).script = s.script := rfl

@[simp] theorem State.packOverflow_replies (s : State) (len d : Nat) : (s.packOverflow len d).replies = s.replies := rfl

@[simp] theorem State.packOverflow_fresh (s : State) (len d : Nat) : (s.packOverflow len d).fresh = s.fresh := rfl

@[simp] theorem State.deliver_cfg (s : State) (d n : Byte) (name : List Byte) (p : Word) (payload : List Byte) : (s.deliver d n name p payload).cfg = s.cfg := rfl

@[simp] theorem State.deliver_numpix (s : State) (d n : Byte) (name : List Byte) (p : Word) (payload : List Byte) : (s.deliver d n name p payload).numpix = s.numpix := rfl

@[simp] theorem State.deliver_pkDepth (s : State) (d n : Byte) (name : List Byte) (p : Word) (payload : List Byte) : (s.deliver d n name p payload).pkDepth = s.pkDepth := rfl

@[simp] theorem State.deliver_pkFnlen (s : State) (d n : Byte) (name : List Byte) (p : Word) (payload : List Byte) : (s.deliver d n name p payload).pkFnlen = s.pkFnlen := rfl

@[simp] theorem State.deliver_pkPlen (s : State) (d n : Byte) (name : List Byte) (p : Word) (payload : List Byte) : (s.deliver d n name p payload).pkPlen = s.pkPlen := rfl

@[simp] theorem State.deliver_capres (s : State) (d n : Byte) (name : List Byte) (p : Word) (payload : List Byte) : (s.deliver d n name p payload).capres = s.capres := rfl

@[simp] theorem State.deliver_upDepth (s : State) (d n : Byte) (name : List Byte) (p : Word) (payload : List Byte) : (s.deliver d n name p payload).upDepth = Reg.holds (d.setWidth 32) := rfl

@[simp] theorem State.deliver_upFnlen (s : State) (d n : Byte) (name : List Byte) (p : Word) (payload : List Byte) : (s.deliver d n name p payload).upFnlen = Reg.holds (n.setWidth 32) := rfl

@[simp] theorem State.deliver_upPlen (s : State) (d n : Byte) (name : List Byte) (p : Word) (payload : List Byte) : (s.deliver d n name p payload).upPlen = Reg.holds p := rfl

@[simp] theorem State.deliver_done (s : State) (d n : Byte) (name : List Byte) (p : Word) (payload : List Byte) : (s.deliver d n name p payload).done = s.done := rfl

@[simp] theorem State.deliver_err (s : State) (d n : Byte) (name : List Byte) (p : Word) (payload : List Byte) : (s.deliver d n name p payload).err = s.err := rfl

@[simp] theorem State.deliver_upvalid (s : State) (d n : Byte) (name : List Byte) (p : Word) (payload : List Byte) : (s.deliver d n name p payload).upvalid = true := rfl

@[simp] theorem State.deliver_errcode (s : State) (d n : Byte) (name : List Byte) (p : Word) (payload : List Byte) : (s.deliver d n name p payload).errcode = s.errcode := rfl

@[simp] theorem State.deliver_ch (s : State) (d n : Byte) (name : List Byte) (p : Word) (payload : List Byte) : (s.deliver d n name p payload).ch = s.ch := rfl

@[simp] theorem State.deliver_fni (s : State) (d n : Byte) (name : List Byte) (p : Word) (payload : List Byte) : (s.deliver d n name p payload).fni = s.fni := rfl

@[simp] theorem State.deliver_pli (s : State) (d n : Byte) (name : List Byte) (p : Word) (payload : List Byte) : (s.deliver d n name p payload).pli = s.pli := rfl

@[simp] theorem State.deliver_fno (s : State) (d n : Byte) (name : List Byte) (p : Word) (payload : List Byte) : (s.deliver d n name p payload).fno = s.fno.writeBytes 0 name := rfl

@[simp] theorem State.deliver_plo (s : State) (d n : Byte) (name : List Byte) (p : Word) (payload : List Byte) : (s.deliver d n name p payload).plo = s.plo.writeBytes 0 payload := rfl

@[simp] theorem State.deliver_cursor (s : State) (d n : Byte) (name : List Byte) (p : Word) (payload : List Byte) : (s.deliver d n name p payload).cursor = s.cursor := rfl

@[simp] theorem State.deliver_script (s : State) (d n : Byte) (name : List Byte) (p : Word) (payload : List Byte) : (s.deliver d n name p payload).script = s.script := rfl

@[simp] theorem State.deliver_replies (s : State) (d n : Byte) (name : List Byte) (p : Word) (payload : List Byte) : (s.deliver d n name p payload).replies = s.replies := rfl

@[simp] theorem State.deliver_fresh (s : State) (d n : Byte) (name : List Byte) (p : Word) (payload : List Byte) : (s.deliver d n name p payload).fresh = s.fresh := rfl

@[simp] theorem State.finishUnpack_cfg (s : State) (c : Cursor) : (s.finishUnpack c).cfg = s.cfg := rfl

@[simp] theorem State.finishUnpack_numpix (s : State) (c : Cursor) : (s.finishUnpack c).numpix = s.numpix := rfl

@[simp] theorem State.finishUnpack_pkDepth (s : State) (c : Cursor) : (s.finishUnpack c).pkDepth = s.pkDepth := rfl

@[simp] theorem State.finishUnpack_pkFnlen (s : State) (c : Cursor) : (s.finishUnpack c).pkFnlen = s.pkFnlen := rfl

@[simp] theorem State.finishUnpack_pkPlen (s : State) (c : Cursor) : (s.finishUnpack c).pkPlen = s.pkPlen := rfl

@[simp] theorem State.finishUnpack_capres (s : State) (c : Cursor) : (s.finishUnpack c).capres = s.capres := rfl

@[simp] theorem State.finishUnpack_upDepth (s : State) (c : Cursor) : (s.finishUnpack c).upDepth = Reg.holds c.ld := rfl

@[simp] theorem State.finishUnpack_upFnlen (s : State) (c : Cursor) : (s.finishUnpack c).upFnlen = Reg.holds c.ln := rfl

@[simp] theorem State.finishUnpack_upPlen (s : State) (c : Cursor) : (s.finishUnpack c).upPlen = Reg.holds c.lp := rfl

@[simp] theorem State.finishUnpack_done (s : State) (c : Cursor) : (s.finishUnpack c).done = true := rfl

@[simp] theorem State.finishUnpack_err (s : State) (c : Cursor) : (s.finishUnpack c).err = false := rfl

@[simp] theorem State.finishUnpack_upvalid (s : State) (c : Cursor) : (s.finishUnpack c).upvalid = true := rfl

@[simp] theorem State.finishUnpack_errcode (s : State) (c : Cursor) : (s.finishUnpack c).errcode = none := rfl

@[simp] theorem State.finishUnpack_ch (s : State) (c : Cursor) : (s.finishUnpack c).ch = s.ch := rfl

@[simp] theorem State.finishUnpack_fni (s : State) (c : Cursor) : (s.finishUnpack c).fni = s.fni := rfl

@[simp] theorem State.finishUnpack_pli (s : State) (c : Cursor) : (s.finishUnpack c).pli = s.pli := rfl

@[simp] theorem State.finishUnpack_fno (s : State) (c : Cursor) : (s.finishUnpack c).fno = s.fno := rfl

@[simp] theorem State.finishUnpack_plo (s : State) (c : Cursor) : (s.finishUnpack c).plo = s.plo := rfl

@[simp] theorem State.finishUnpack_cursor (s : State) (c : Cursor) : (s.finishUnpack c).cursor = none := rfl

@[simp] theorem State.finishUnpack_script (s : State) (c : Cursor) : (s.finishUnpack c).script = s.script := rfl

@[simp] theorem State.finishUnpack_replies (s : State) (c : Cursor) : (s.finishUnpack c).replies = s.replies := rfl

@[simp] theorem State.finishUnpack_fresh (s : State) (c : Cursor) : (s.finishUnpack c).fresh = s.fresh := rfl

@[simp] theorem State.answer_cfg (s : State) (r : Reply) (k : Nat) : (s.answer r k).cfg = s.cfg := rfl

@[simp] theorem State.answer_numpix (s : State) (r : Reply) (k : Nat) : (s.answer r k).numpix = s.numpix := rfl

@[simp] theorem State.answer_pkDepth (s : State) (r : Reply) (k : Nat) : (s.answer r k).pkDepth = s.pkDepth := rfl

@[simp] theorem State.answer_pkFnlen (s : State) (r : Reply) (k : Nat) : (s.answer r k).pkFnlen = s.pkFnlen := rfl

@[simp] theorem State.answer_pkPlen (s : State) (r : Reply) (k : Nat) : (s.answer r k).pkPlen = s.pkPlen := rfl

@[simp] theorem State.answer_capres (s : State) (r : Reply) (k : Nat) : (s.answer r k).capres = s.capres := rfl

@[simp] theorem State.answer_upDepth (s : State) (r : Reply) (k : Nat) : (s.answer r k).upDepth = s.upDepth := rfl

@[simp] theorem State.answer_upFnlen (s : State) (r : Reply) (k : Nat) : (s.answer r k).upFnlen = s.upFnlen := rfl

@[simp] theorem State.answer_upPlen (s : State) (r : Reply) (k : Nat) : (s.answer r k).upPlen = s.upPlen := rfl

@[simp] theorem State.answer_done (s : State) (r : Reply) (k : Nat) : (s.answer r k).done = s.done := rfl

@[simp] theorem State.answer_err (s : State) (r : Reply) (k : Nat) : (s.answer r k).err = s.err := rfl

@[simp] theorem State.answer_upvalid (s : State) (r : Reply) (k : Nat) : (s.answer r k).upvalid = s.upvalid := rfl

@[simp] theorem State.answer_errcode (s : State) (r : Reply) (k : Nat) : (s.answer r k).errcode = s.errcode := rfl

@[simp] theorem State.answer_ch (s : State) (r : Reply) (k : Nat) : (s.answer r k).ch = s.ch := rfl

@[simp] theorem State.answer_fni (s : State) (r : Reply) (k : Nat) : (s.answer r k).fni = s.fni := rfl

@[simp] theorem State.answer_pli (s : State) (r : Reply) (k : Nat) : (s.answer r k).pli = s.pli := rfl

@[simp] theorem State.answer_fno (s : State) (r : Reply) (k : Nat) : (s.answer r k).fno = s.fno := rfl

@[simp] theorem State.answer_plo (s : State) (r : Reply) (k : Nat) : (s.answer r k).plo = s.plo := rfl

@[simp] theorem State.answer_cursor (s : State) (r : Reply) (k : Nat) : (s.answer r k).cursor = s.cursor := rfl

@[simp] theorem State.answer_script (s : State) (r : Reply) (k : Nat) : (s.answer r k).script = s.script := rfl

@[simp] theorem State.answer_replies (s : State) (r : Reply) (k : Nat) : (s.answer r k).replies = s.replies ++ [r] := rfl

@[simp] theorem State.answer_fresh (s : State) (r : Reply) (k : Nat) : (s.answer r k).fresh = s.fresh + k := rfl

@[simp] theorem State.illegalCommand_cfg (s : State) : s.illegalCommand.cfg = s.cfg := rfl

@[simp] theorem State.illegalCommand_numpix (s : State) : s.illegalCommand.numpix = s.numpix := rfl

@[simp] theorem State.illegalCommand_pkDepth (s : State) : s.illegalCommand.pkDepth = s.pkDepth := rfl

@[simp] theorem State.illegalCommand_pkFnlen (s : State) : s.illegalCommand.pkFnlen = s.pkFnlen := rfl

@[simp] theorem State.illegalCommand_pkPlen (s : State) : s.illegalCommand.pkPlen = s.pkPlen := rfl

@[simp] theorem State.illegalCommand_capres (s : State) : s.illegalCommand.capres = s.capres := rfl

@[simp] theorem State.illegalCommand_upDepth (s : State) : s.illegalCommand.upDepth = s.upDepth := rfl

@[simp] theorem State.illegalCommand_upFnlen (s : State) : s.illegalCommand.upFnlen = s.upFnlen := rfl

@[simp] theorem State.illegalCommand_upPlen (s : State) : s.illegalCommand.upPlen = s.upPlen := rfl

@[simp] theorem State.illegalCommand_done (s : State) : s.illegalCommand.done = true := rfl

@[simp] theorem State.illegalCommand_err (s : State) : s.illegalCommand.err = true := rfl

@[simp] theorem State.illegalCommand_upvalid (s : State) : s.illegalCommand.upvalid = s.upvalid := rfl

@[simp] theorem State.illegalCommand_errcode (s : State) : s.illegalCommand.errcode = some .illegalCommand := rfl

@[simp] theorem State.illegalCommand_ch (s : State) : s.illegalCommand.ch = s.ch := rfl

@[simp] theorem State.illegalCommand_fni (s : State) : s.illegalCommand.fni = s.fni := rfl

@[simp] theorem State.illegalCommand_pli (s : State) : s.illegalCommand.pli = s.pli := rfl

@[simp] theorem State.illegalCommand_fno (s : State) : s.illegalCommand.fno = s.fno := rfl

@[simp] theorem State.illegalCommand_plo (s : State) : s.illegalCommand.plo = s.plo := rfl

@[simp] theorem State.illegalCommand_cursor (s : State) : s.illegalCommand.cursor = none := rfl

@[simp] theorem State.illegalCommand_script (s : State) : s.illegalCommand.script = s.script := rfl

@[simp] theorem State.illegalCommand_replies (s : State) : s.illegalCommand.replies = s.replies := rfl

@[simp] theorem State.illegalCommand_fresh (s : State) : s.illegalCommand.fresh = s.fresh := rfl

/-- The two updates that write the output buffers change nothing else. -/
theorem State.storeByte_eq (s : State) (ln : Word) (k : Nat) (v : Byte) :
    s.storeByte ln k v = { s with fno := (s.storeByte ln k v).fno, plo := (s.storeByte ln k v).plo } := by
  unfold State.storeByte
  split_ifs <;> rfl

theorem State.readNext_eq (s : State) (c : Cursor) (v : Bool) :
    s.readNext c v = { s with fno := (s.readNext c v).fno, plo := (s.readNext c v).plo } := by
  unfold State.readNext
  split_ifs
  · exact State.storeByte_eq _ _ _ _
  · rfl

/-- A host write of bytes changes one host-writable space and nothing else. -/
theorem State.hostWriteBytes_eq (s : State) (name : SpaceName) (a : Nat) (bs : List Byte) :
    s.hostWriteBytes name a bs = { s with
      ch := (s.hostWriteBytes name a bs).ch
      fni := (s.hostWriteBytes name a bs).fni
      pli := (s.hostWriteBytes name a bs).pli } := by
  cases name <;> rfl

end Sys2Proof.Machine
end

