-- ==== Sys2Proof/Laws/Ops.lean ====
section
/-! SUPPORT. What each shared operation can do, said once: if it answers a next state, one of the listed cases holds. -/

namespace Sys2Proof.Machine

@[simp] theorem Reg.operand_holds (v : Word) (cfg : Config.Params) : (Reg.holds v).operand cfg = some v := rfl

@[simp] theorem Reg.hostValue_holds (v free : Word) : (Reg.holds v).hostValue free = v := rfl

/-- A register operand is the word the register holds. -/
theorem Reg.operand_val {r : Reg} {cfg : Config.Params} {v : Word} (h : r.operand cfg = some v) : v = r.val := by
  unfold Reg.operand at h
  split_ifs at h
  · exact (Option.some.inj h).symm
  · cases hc : cfg.undefRegs <;> rw [hc] at h <;> simp_all

theorem State.busy_iff (s : State) : s.busy = true ↔ ∃ c, s.cursor = some c := by
  simp [State.busy, Option.isSome_iff_exists]

theorem State.busy_false_iff (s : State) : s.busy = false ↔ s.cursor = none := by
  simp [State.busy]

/-- The start of a command answers a next state only from an idle engine with a legal `NUMPIX`, and then as its body does. -/
theorem State.begin_next {s t : State} {body : State → Host.Outcome State Fault Refusal} :
    s.begin body = .next t ↔ s.busy = false ∧ s.numpixOver = false ∧ body s.started = .next t := by
  unfold State.begin
  cases s.busy <;> cases s.numpixOver <;> simp

/-- An operand is used as `k` says, or the command is refused. -/
theorem State.withOperand_next {s t : State} {r : Reg} {k : Word → Host.Outcome State Fault Refusal} :
    s.withOperand r k = .next t ↔ ∃ v, r.operand s.cfg = some v ∧ k v = .next t := by
  unfold State.withOperand
  cases r.operand s.cfg <;> simp

/-- What CAP's phase can do. -/
theorem capCompute_next {s t : State} (h : capCompute s = .next t) :
    (∃ e, (e = .filenameTooLong ∨ e = .invalidBitDepth) ∧ t = s.capFail e) ∨
    (∃ v : Word, t = { s with capres := Reg.holds v }.complete) := by
  unfold capCompute at h
  obtain ⟨n, -, h⟩ := State.withOperand_next.1 h
  split_ifs at h with h1
  · exact .inl ⟨_, .inl rfl, (Host.Outcome.next.inj h).symm⟩
  obtain ⟨d, -, h⟩ := State.withOperand_next.1 h
  split_ifs at h with h2
  · exact .inl ⟨_, .inr rfl, (Host.Outcome.next.inj h).symm⟩
  obtain ⟨np, -, h⟩ := State.withOperand_next.1 h
  exact .inr ⟨_, (Host.Outcome.next.inj h).symm⟩

/-- PACK's checks fail, or pass with a legal filename length and depth. -/
theorem packChecked_next {s t : State} {body : Word → Word → Word → Word → Host.Outcome State Fault Refusal}
    (h : packChecked s body = .next t) :
    (∃ e, (e = .filenameTooLong ∨ e = .invalidBitDepth) ∧ t = s.fail e) ∨
    (∃ d n p np : Word, s.pkDepth.operand s.cfg = some d ∧ s.pkFnlen.operand s.cfg = some n ∧
      s.pkPlen.operand s.cfg = some p ∧ s.numpix.operand s.cfg = some np ∧
      legalDepth d.toNat ∧ n.toNat ≤ 255 ∧ body d n p np = .next t) := by
  unfold packChecked at h
  obtain ⟨n, hn, h⟩ := State.withOperand_next.1 h
  split_ifs at h with h1
  · exact .inl ⟨_, .inl rfl, (Host.Outcome.next.inj h).symm⟩
  obtain ⟨d, hd, h⟩ := State.withOperand_next.1 h
  split_ifs at h with h2
  · exact .inl ⟨_, .inr rfl, (Host.Outcome.next.inj h).symm⟩
  obtain ⟨p, hp, h⟩ := State.withOperand_next.1 h
  obtain ⟨np, hnp, h⟩ := State.withOperand_next.1 h
  refine .inr ⟨d, n, p, np, hd, hn, hp, hnp, ?_, ?_, h⟩
  · unfold legalDepth; omega
  · unfold Config.fnMax at h1; omega

/-- PACK after its checks: the stream is written whole, or it overflows. -/
theorem packWrite_next {s t : State} {d n p np : Word} (h : packWrite s d n p np = .next t) :
    (∃ ch, packFits (streamLen np) d n p = true ∧ packStream s d n p = some ch ∧ t = { s with ch := ch }.complete) ∨
    (packFits (streamLen np) d n p = false ∧ t = s.packOverflow (streamLen np) d.toNat) := by
  unfold packWrite at h
  split_ifs at h with hf
  · cases hs : packStream s d n p with
    | none => simp [hs] at h
    | some ch => rw [hs] at h; exact .inl ⟨ch, hf, rfl, (Host.Outcome.next.inj h).symm⟩
  · exact .inr ⟨by simpa using hf, (Host.Outcome.next.inj h).symm⟩

/-- UNPACK after its start: it fails, or it delivers the output record. -/
theorem unpackRead_next {s t : State} {np : Word} (h : unpackRead s np = .next t) :
    (∃ e, unpackStream s.ch (streamLen np) = .error e ∧ t = s.fail e) ∨
    (∃ d n name p payload, unpackStream s.ch (streamLen np) = .ok d n name p payload ∧
      t = (s.deliver d n name p payload).complete) := by
  unfold unpackRead at h
  cases hu : unpackStream s.ch (streamLen np) with
  | undef => simp [hu] at h
  | error e => rw [hu] at h; exact .inl ⟨e, rfl, (Host.Outcome.next.inj h).symm⟩
  | ok d n name p payload => rw [hu] at h; exact .inr ⟨d, n, name, p, payload, rfl, (Host.Outcome.next.inj h).symm⟩

/-- One step of PACK (R135). -/
theorem packStep_next {s t : State} {c : Cursor} (h : packStep s c = .next t) :
    ∃ np, s.numpix.operand s.cfg = some np ∧
      ((c.bc = totalBytes c.ln.toNat c.lp.toNat ∧ t = s.complete) ∨
       (c.bc ≠ totalBytes c.ln.toNat c.lp.toNat ∧ c.ci = streamLen np ∧
          t = s.packOverflow (streamLen np) c.ld.toNat) ∨
       (c.bc ≠ totalBytes c.ln.toNat c.lp.toNat ∧ c.ci ≠ streamLen np ∧
          ∃ v, serBit s.fni s.pli c.ld c.ln c.lp (8 * c.bc + c.bi) = some v ∧
            t = { s with ch := s.ch.writeBit c.ci c.bp v, cursor := some c.packNext }) ∨
       (c.bc ≠ totalBytes c.ln.toNat c.lp.toNat ∧ c.ci ≠ streamLen np ∧
          packFits (streamLen np) c.ld c.ln c.lp = false ∧ t = { s with cursor := some c.packNext })) := by
  unfold packStep at h
  obtain ⟨np, hnp, h⟩ := State.withOperand_next.1 h
  refine ⟨np, hnp, ?_⟩
  by_cases h1 : c.bc = totalBytes c.ln.toNat c.lp.toNat
  · rw [if_pos h1] at h
    exact .inl ⟨h1, (Host.Outcome.next.inj h).symm⟩
  rw [if_neg h1] at h
  by_cases h2 : c.ci = streamLen np
  · rw [if_pos h2] at h
    exact .inr (.inl ⟨h1, h2, (Host.Outcome.next.inj h).symm⟩)
  rw [if_neg h2] at h
  cases hb : serBit s.fni s.pli c.ld c.ln c.lp (8 * c.bc + c.bi) with
  | some v =>
    rw [hb] at h
    exact .inr (.inr (.inl ⟨h1, h2, v, rfl, (Host.Outcome.next.inj h).symm⟩))
  | none =>
    rw [hb] at h
    simp only at h
    split_ifs at h with hf
    exact .inr (.inr (.inr ⟨h1, h2, (Bool.not_eq_true _).mp hf, (Host.Outcome.next.inj h).symm⟩))

/-- A byte of the stream one of whose bits is `undef` has no value (R168, R21). -/
theorem streamByte_eq_none {ch : Space} {d k j : Nat} (h1 : 8 * k ≤ j) (h2 : j < 8 * k + 8)
    (hb : streamBit ch d j = none) : streamByte ch d k = none := by
  have gather : ∀ n i, i < n → streamBit ch d (8 * k + i) = none → gatherBits ch d (8 * k) n = none := by
    intro n
    induction n with
    | zero => intro i h; omega
    | succ n ih =>
      intro i h hi
      simp only [gatherBits]
      by_cases e : i = n
      · subst e; rw [hi]; split <;> simp_all
      · rw [ih i (by omega) hi]
  exact gather 8 (j - 8 * k) (by omega) (by rwa [show 8 * k + (j - 8 * k) = j by omega])

/-- `bitsKnown` says exactly that every bit of its range is defined. -/
theorem bitsKnown_eq_true {ch : Space} {d j n : Nat} :
    bitsKnown ch d j n = true ↔ ∀ i, i < n → (streamBit ch d (j + i)).isSome = true := by
  induction n generalizing j with
  | zero => simp [bitsKnown]
  | succ n ih =>
    simp only [bitsKnown, Bool.and_eq_true, ih]
    constructor
    · rintro ⟨h0, h⟩ i hi
      cases i with
      | zero => exact h0
      | succ i => rw [show j + (i + 1) = j + 1 + i by omega]; exact h i (by omega)
    · intro h
      refine ⟨h 0 (by omega), fun i hi => ?_⟩
      rw [show j + 1 + i = j + (i + 1) by omega]
      exact h (i + 1) (by omega)

/-- `Transitions` leaves a cursor, fails, or finishes the command (R160). -/
theorem transitions_cases (fuel : Nat) (s : State) (c : Cursor) :
    (∃ c', transitions fuel s c = { s with cursor := some c' }) ∨
    (∃ e, (e = .magicMismatch ∨ e = .invalidBitDepth) ∧ transitions fuel s c = s.dropOutput.fail e) ∨
    (∃ c' : Cursor, c'.transition = .finished ∧ transitions fuel s c = s.finishUnpack c') := by
  induction fuel generalizing c with
  | zero => exact .inl ⟨c, rfl⟩
  | succ k ih =>
    simp only [transitions]
    cases hc : c.transition with
    | moved c' => exact ih c'
    | failed e =>
      refine .inr (.inl ⟨e, ?_, rfl⟩)
      unfold Cursor.transition at hc
      split at hc <;> (try split_ifs at hc) <;> simp_all
    | finished => exact .inr (.inr ⟨c, hc, rfl⟩)
    | stay => exact .inl ⟨c, rfl⟩

/-- A case of `Transitions` that moves on goes to a later phase of R152. -/
theorem Cursor.transition_moved_rank {c c' : Cursor} (h : c.transition = .moved c') :
    c.ph.rank < c'.ph.rank ∧ c'.ph.rank ≤ 6 := by
  unfold Cursor.transition at h
  cases hp : c.ph <;> rw [hp] at h <;> simp only at h <;> (repeat' split at h) <;> cases h <;> simp [Phase.rank]

/-- One pass per phase that is left is enough: more passes change nothing (R160, R171). -/
theorem transitions_enough (n : Nat) (s : State) (c : Cursor) (h : 6 ≤ n + c.ph.rank) :
    transitions (n + 1) s c = transitions (n + 2) s c := by
  induction n generalizing c with
  | zero =>
    rw [transitions, transitions]
    cases hc : c.transition with
    | moved c' => have := Cursor.transition_moved_rank hc; omega
    | failed _ => rfl
    | finished => rfl
    | stay => rfl
  | succ k ih =>
    rw [transitions, transitions]
    cases hc : c.transition with
    | moved c' => have := Cursor.transition_moved_rank hc; exact ih c' (by omega)
    | failed _ => rfl
    | finished => rfl
    | stay => rfl

/-- One turn of UNPACK's loop (R157, R160). -/
theorem unpackStep_next {s t : State} {c : Cursor} (h : unpackStep s c = .next t) :
    ∃ np, s.numpix.operand s.cfg = some np ∧
      ((c.ci = streamLen np ∧ t = s.dropOutput.fail .truncatedStream) ∨
       (c.ci ≠ streamLen np ∧ ∃ v, s.ch.readBit c.ci c.bp = some v ∧
          t = transitions 7 (s.readNext c v) (c.readNext v))) := by
  unfold unpackStep at h
  obtain ⟨np, hnp, h⟩ := State.withOperand_next.1 h
  refine ⟨np, hnp, ?_⟩
  split_ifs at h with h1
  · exact .inl ⟨h1, (Host.Outcome.next.inj h).symm⟩
  · cases hb : s.ch.readBit c.ci c.bp with
    | none => simp [hb] at h
    | some v => rw [hb] at h; exact .inr ⟨h1, v, rfl, (Host.Outcome.next.inj h).symm⟩

/-- One step of the engine: nothing, CAP's phase, a step of PACK, or a turn of UNPACK. -/
theorem engineStep_next {s t : State} (h : engineStep s = .next t) :
    (s.cursor = none ∧ t = s) ∨
    (∃ c, s.cursor = some c ∧ c.ph = .capCompute ∧ capCompute s = .next t) ∨
    (∃ c, s.cursor = some c ∧ (c.ph = .packPreamble ∨ c.ph = .packBody) ∧ packStep s c = .next t) ∨
    (∃ c, s.cursor = some c ∧ c.ph.ofUnpack = true ∧ unpackStep s c = .next t) := by
  unfold engineStep at h
  cases hc : s.cursor with
  | none => rw [hc] at h; exact .inl ⟨rfl, (Host.Outcome.next.inj h).symm⟩
  | some c =>
    rw [hc] at h
    simp only at h
    cases hp : c.ph <;> rw [hp] at h <;> simp only at h
    case capCompute => exact .inr (.inl ⟨c, rfl, hp, h⟩)
    case packPreamble => exact .inr (.inr (.inl ⟨c, rfl, .inl hp, h⟩))
    case packBody => exact .inr (.inr (.inl ⟨c, rfl, .inr hp, h⟩))
    all_goals exact .inr (.inr (.inr ⟨c, rfl, by simp [hp, Phase.ofUnpack], h⟩))

/-- A host register write stores into one input register, or is ignored (R38, R181). -/
theorem State.hostWrite_some {s t : State} {v : Word} {reg : Nat} (h : s.hostWrite v reg = some t) :
    t = s ∨ t = { s with numpix := Reg.holds v } ∨ t = { s with pkDepth := Reg.holds v } ∨
      t = { s with pkFnlen := Reg.holds v } ∨ t = { s with pkPlen := Reg.holds v } := by
  unfold State.hostWrite at h
  split at h <;> simp_all

/-- Everything one step of the machine can do, `s0` being the state after the host's move has been taken off its script. -/
theorem step_next {s t : State} (h : step s = .next t) :
    -- the engine moves
    (engineStep s = .next t) ∨
    (∃ rest, s.busy = true ∧ s.script = .pause :: rest ∧ engineStep { s with script := rest } = .next t) ∨
    -- the host reads, pauses or waits
    (∃ m rest r k, s.script = m :: rest ∧ t = { s with script := rest }.answer r k) ∨
    (∃ rest, s.busy = false ∧ s.script = .pause :: rest ∧ t = { s with script := rest }) ∨
    (s.busy = false ∧ t = s) ∨
    -- the reset input
    (∃ rest, s.script = .reset :: rest ∧ t = { s with script := rest }.hardReset) ∨
    -- the host writes
    (∃ reg v rest, s.busy = false ∧ s.script = .wr reg v :: rest ∧ reg ≠ 0 ∧
      { s with script := rest }.hostWrite v reg = some t) ∨
    (∃ name a bs rest, s.busy = false ∧ s.script = .wrm name a bs :: rest ∧
      a + bs.length ≤ spaceSize s.cfg name ∧ t = { s with script := rest }.hostWriteBytes name a bs) ∨
    -- the host writes `CMD`
    (∃ w rest, s.busy = false ∧ s.script = .wr 0 w :: rest ∧ writeCmd w { s with script := rest } = .next t) := by
  unfold step machineStep at h
  cases hs : s.script with
  | nil => rw [hs] at h; exact .inl h
  | cons m rest =>
    rw [hs] at h
    simp only at h
    have answered : ∀ (reg : Nat) (u : State), hostRd reg { s with script := rest } = .next u →
        ∃ r k, u = { s with script := rest }.answer r k := by
      intro reg u hu
      unfold hostRd at hu
      split at hu
      · exact ⟨_, _, (Host.Outcome.next.inj hu).symm⟩
      · cases hu
    by_cases hb : s.busy = true
    · rw [if_pos hb] at h
      unfold busyMove at h
      split at h
      · split_ifs at h
        obtain ⟨r, k, e⟩ := answered _ _ h
        exact .inr (.inr (.inl ⟨_, rest, r, k, rfl, e⟩))
      · cases h
      · cases h
      · cases h
      · exact .inl h
      · exact .inr (.inl ⟨rest, hb, rfl, h⟩)
      · exact .inr (.inr (.inr (.inr (.inr (.inl ⟨rest, rfl, (Host.Outcome.next.inj h).symm⟩)))))
    · rw [if_neg hb] at h
      have hb' : s.busy = false := (Bool.not_eq_true _).mp hb
      unfold idleMove at h
      split at h
      · obtain ⟨r, k, e⟩ := answered _ _ h
        exact .inr (.inr (.inl ⟨_, rest, r, k, rfl, e⟩))
      · rename_i reg v
        unfold hostWr at h
        split_ifs at h with h0
        · subst h0
          exact .inr (.inr (.inr (.inr (.inr (.inr (.inr (.inr ⟨v, rest, hb', rfl, h⟩)))))))
        · split at h
          · rename_i s' hw
            refine .inr (.inr (.inr (.inr (.inr (.inr (.inl ⟨reg, v, rest, hb', rfl, h0, ?_⟩))))))
            rw [hw, Host.Outcome.next.inj h]
          · cases h
      · unfold hostRdm at h
        split_ifs at h
        exact .inr (.inr (.inl ⟨_, rest, _, _, rfl, (Host.Outcome.next.inj h).symm⟩))
      · unfold hostWrm at h
        split_ifs at h with hr
        exact .inr (.inr (.inr (.inr (.inr (.inr (.inr (.inl
          ⟨_, _, _, rest, hb', rfl, hr, (Host.Outcome.next.inj h).symm⟩)))))))
      · unfold hostWait at h
        split_ifs at h
        · exact .inr (.inr (.inl ⟨_, rest, _, _, rfl, (Host.Outcome.next.inj h).symm⟩))
        · exact .inr (.inr (.inr (.inr (.inl ⟨hb', (Host.Outcome.next.inj h).symm⟩))))
      · exact .inr (.inr (.inr (.inl ⟨rest, hb', rfl, (Host.Outcome.next.inj h).symm⟩)))
      · exact .inr (.inr (.inr (.inr (.inr (.inl ⟨rest, rfl, (Host.Outcome.next.inj h).symm⟩)))))

/-- A write of `CMD` from an idle engine: a command run whole or started, or `IllegalCommand`. -/
theorem writeCmd_next {s t : State} {w : Word} (h : writeCmd w s = .next t) :
    (∃ i, decode w = .ok i ∧ (exec i s = .next t ∨ start i s = .next t)) ∨
    (∃ e, decode w = .error e ∧ s.busy = false ∧ t = s.illegalCommand) := by
  unfold writeCmd at h
  cases hd : decode w with
  | ok i =>
    rw [hd] at h
    simp only at h
    cases hv : s.cfg.view <;> rw [hv] at h
    · exact .inl ⟨i, rfl, .inl h⟩
    · exact .inl ⟨i, rfl, .inr h⟩
  | error e =>
    rw [hd] at h
    simp only at h
    split_ifs at h with hb
    exact .inr ⟨e, rfl, (Bool.not_eq_true _).mp hb, (Host.Outcome.next.inj h).symm⟩

/-- What a command run whole can do. -/
theorem exec_next {i : Instr} {s t : State} (h : exec i s = .next t) :
    s.busy = false ∧ s.numpixOver = false ∧
      ((i = .cap ∧ capCompute s.started = .next t) ∨
       (i = .pack ∧ packChecked s.started (packWrite s.started) = .next t) ∨
       (i = .unpack ∧ ∃ np, s.numpix.operand s.cfg = some np ∧ unpackRead s.started.dropOutput np = .next t)) := by
  cases i with
  | cap =>
    unfold exec execCap at h
    obtain ⟨h1, h2, h3⟩ := State.begin_next.1 h
    exact ⟨h1, h2, .inl ⟨rfl, h3⟩⟩
  | pack =>
    unfold exec execPack at h
    obtain ⟨h1, h2, h3⟩ := State.begin_next.1 h
    exact ⟨h1, h2, .inr (.inl ⟨rfl, h3⟩)⟩
  | unpack =>
    unfold exec execUnpack at h
    obtain ⟨h1, h2, h3⟩ := State.begin_next.1 h
    obtain ⟨np, hnp, h4⟩ := State.withOperand_next.1 h3
    exact ⟨h1, h2, .inr (.inr ⟨rfl, np, hnp, h4⟩)⟩

end Sys2Proof.Machine
end

