-- ==== Sys2Proof/Laws/PerInstr.lean ====
section
/-! SUPPORT. The family of statements about each command as syntax: its word decodes to it, is not reserved, and the command
is well formed. -/

namespace Sys2Proof.Laws.Encoding

/-- The command's word is a command word (R101, R102), decodes to the command, and the command is well formed. -/
def Statement (i : Instr) : Prop :=
  decode (encode i) = .ok i ∧ commandWordOk (encode i) = true ∧ i.wellFormed = true

theorem cap : Statement .cap := ⟨rfl, rfl, rfl⟩

theorem pack : Statement .pack := ⟨rfl, rfl, rfl⟩

theorem unpack : Statement .unpack := ⟨rfl, rfl, rfl⟩

end Sys2Proof.Laws.Encoding
end

