-- ==== Sys2Proof/Tests/Slice0.lean ====
section
/-! SUPPORT. Small tests against the spec's own vectors (95_test_vectors.md) and words, and for every statement with hypotheses
a witness that meets them together. -/

namespace Sys2Proof.Tests

open Sys2Proof.Machine

/-! ## Helpers -/

/-- Does the outcome answer a next state that passes `p`? -/
def nextIs (o : Host.Outcome State Fault Refusal) (p : State → Bool) : Bool :=
  match o with
  | .next t => p t
  | .fault _ => false
  | .refused _ => false

theorem nextIs_exists {o : Host.Outcome State Fault Refusal} {p : State → Bool} (h : nextIs o p = true) :
    ∃ t, o = .next t ∧ p t = true := by
  cases o with
  | next t => exact ⟨t, rfl, h⟩
  | fault _ => cases h
  | refused _ => cases h

/-- A space whose first bytes are those given, all defined. -/
def spaceOf (bs : List Byte) : Space := Space.undef.writeBytes 0 bs

/-- The reset state with the operands the host would write. -/
def ready (np d n p : Word) (ch fni pli : Space) : State :=
  { State.reset with
    numpix := Reg.holds np, pkDepth := Reg.holds d, pkFnlen := Reg.holds n, pkPlen := Reg.holds p,
    ch := ch, fni := fni, pli := pli }

/-- A 32-pixel image of FF bytes and the empty record at depth 3 (the operands of V15). -/
def v15 : State := ready 32 3 0 0 (spaceOf (List.replicate 128 0xFF)) Space.undef Space.undef

/-- Bit 0 of channels 0..103 in every packed stream: the magic, from the listing of V10. -/
def magicBits : List Byte :=
  [0xFF, 0xFF, 0xFE, 0xFE, 0xFF, 0xFF, 0xFF, 0xFE, 0xFE, 0xFE, 0xFF, 0xFE, 0xFF, 0xFF, 0xFF, 0xFE] ++
  [0xFF, 0xFE, 0xFF, 0xFE, 0xFE, 0xFF, 0xFF, 0xFE, 0xFF, 0xFF, 0xFF, 0xFE, 0xFE, 0xFF, 0xFF, 0xFE] ++
  [0xFF, 0xFE, 0xFE, 0xFE, 0xFE, 0xFF, 0xFF, 0xFE, 0xFE, 0xFF, 0xFF, 0xFF, 0xFE, 0xFF, 0xFF, 0xFE] ++
  [0xFF, 0xFF, 0xFF, 0xFF, 0xFE, 0xFF, 0xFF, 0xFE, 0xFF, 0xFF, 0xFF, 0xFE, 0xFE, 0xFF, 0xFF, 0xFE] ++
  [0xFE, 0xFF, 0xFE, 0xFE, 0xFF, 0xFF, 0xFF, 0xFE, 0xFF, 0xFE, 0xFE, 0xFE, 0xFE, 0xFF, 0xFF, 0xFE] ++
  [0xFE, 0xFE, 0xFE, 0xFE, 0xFF, 0xFF, 0xFF, 0xFE, 0xFE, 0xFE, 0xFE, 0xFF, 0xFE, 0xFF, 0xFF, 0xFE] ++
  [0xFF, 0xFE, 0xFE, 0xFF, 0xFF, 0xFF, 0xFF, 0xFE]

/-- The stream of V15 after PACK: depth byte 03, 13 whole channels and one bit of channel 125. -/
def v15Packed : List Byte :=
  magicBits ++ [0xFF, 0xFF, 0xFE, 0xFE, 0xFE, 0xFE, 0xFE, 0xFE] ++ List.replicate 13 0xF8 ++ [0xFE, 0xFF, 0xFF]

/-- The stream of V15 after PACK, ready for UNPACK. -/
def u15 : State := ready 32 0 0 0 (spaceOf v15Packed) Space.undef Space.undef

/-- A one-byte filename and a one-byte payload at depth 8 on a 32-pixel image never written. -/
def small : State := ready 32 8 1 1 Space.undef (spaceOf [0x6B]) (spaceOf [0xA5])

/-- `small` with its PACK started and no bit written yet. -/
def running : State := { small with cursor := some (Cursor.create .packPreamble 8 1 1) }

/-! ## Encodings, written out bit by bit from R100 and R101 -/

theorem test_decode_cap : decode 0b00000000000000000000000000000001#32 = .ok .cap := by decide
theorem test_decode_pack : decode 0b00000000000000000000000000000010#32 = .ok .pack := by decide
theorem test_decode_unpack : decode 0b00000000000000000000000000000011#32 = .ok .unpack := by decide
/-- P3 line 4: `OP` = 2 but bit 4 set. -/
theorem test_decode_bit4 : decode 0x00000012#32 = .error .reservedBits := by decide
theorem test_decode_op0 : decode 0x00000000#32 = .error .reservedOp := by decide
theorem test_decode_op4 : decode 0x00000004#32 = .error .reservedOp := by decide
theorem test_decodeTableWord : decodeTableWord 32 0x00000003 = some .unpack := by decide

/-! ## Well-formedness: each check refuses an ill-formed term -/

theorem test_word_upper_bits : commandWordOk 0x00000011#32 = false := by decide
theorem test_word_op_zero : commandWordOk 0x00000000#32 = false := by decide
theorem test_word_op_four : commandWordOk 0x00000004#32 = false := by decide
theorem test_params_numpix_max : Config.Params.legal { Config.largest with numpixMax := 2 ^ 29, payMax := 2 ^ 31 } = false := by
  decide
theorem test_params_pay_max : Config.Params.legal { Config.largest with numpixMax := 10, payMax := 39 } = false := by decide
theorem test_params_largest : Config.largest.legal = true := by decide
theorem test_register_reserved : regNumberOk 0x0B = false := by decide
theorem test_instr_well_formed : Instr.wellFormed .pack = true := by decide

/-! ## CAP (section 3 of the vectors) -/

/-- V5: −8. -/
theorem test_cap_v5 : nextIs (exec .cap (ready 32 1 5 0 Space.undef Space.undef Space.undef))
    (fun t => t.capres == Reg.holds 0xFFFFFFF8 && t.done && !t.err) = true := by decide
/-- V9g: both operands illegal, the filename length is tested first. -/
theorem test_cap_v9g : nextIs (exec .cap (ready 40 0 256 0 Space.undef Space.undef Space.undef))
    (fun t => !t.capres.defined && t.errcode == some .filenameTooLong) = true := by decide

/-! ## PACK (section 4) -/

/-- V15: the first body channel, the partly written last channel, the untouched one after it. -/
theorem test_pack_v15 : nextIs (exec .pack v15)
    (fun t => t.ch.readByte 104 == some 0xFF && t.ch.readByte 112 == some 0xF8 &&
      t.ch.readByte 125 == some 0xFE && t.ch.readByte 126 == some 0xFF) = true := by decide +kernel
/-- V43: a 1×1 image; bit 0 of each channel is undef and bits [7:1] are kept. -/
theorem test_pack_v43 : nextIs (exec .pack (ready 1 8 0 0 (spaceOf [0x12, 0x34, 0x56, 0x78]) Space.undef Space.undef))
    (fun t => t.errcode == some .capacityExceeded && t.ch.readBit 3 0 == none && t.ch.readBit 3 3 == some true &&
      t.ch.readBit 3 7 == some false && t.ch.readBit 0 1 == some true) = true := by decide

/-! ## UNPACK (section 5) -/

/-- V29b: the stream of V15. -/
theorem test_unpack_v29b : nextIs (exec .unpack u15)
    (fun t => t.upvalid && t.upDepth == Reg.holds 3 && t.upFnlen == Reg.holds 0 && t.upPlen == Reg.holds 0) = true := by
  decide +kernel
/-- V25b: no channel at all. -/
theorem test_unpack_v25b : nextIs (exec .unpack (ready 0 0 0 0 Space.undef Space.undef Space.undef))
    (fun t => t.errcode == some .truncatedStream && t.statusWord == 6) = true := by decide

/-! ## One step of the engine and of the host -/

/-- The first bit PACK writes is bit 0 of `MAGIC[0]` = 0x73, which is 1, in channel 0. -/
theorem test_packStep_first : nextIs (engineStep running)
    (fun t => t.ch.readBit 0 0 == some true && t.ch.readBit 0 1 == none) = true := by decide
/-- P3 lines 1 to 3: a reserved word from reset. -/
theorem test_reserved_word : nextIs (step { State.reset with script := [.wr 0 0] })
    (fun t => t.statusWord == 6 && t.errcodeWord == 7) = true := by decide
/-- R180's example: after reset `RD STATUS` returns 0. -/
theorem test_rd_status : nextIs (step { State.reset with script := [.rd 1] }) (fun t => t.replies == [.word 0]) = true := by
  decide
/-- The step that a `CMD` write takes runs the command, from reset too. -/
theorem test_step_runs_cap : nextIs (step (State.reset.withFetchWord 32 1)) (fun t => t.done && t.script == []) = true := by decide
theorem test_step_runs_pack : nextIs (step (State.reset.withFetchWord 32 2)) (fun t => t.done && t.script == []) = true := by
  decide
theorem test_step_runs_unpack : nextIs (step (State.reset.withFetchWord 32 3)) (fun t => t.done && t.script == []) = true := by
  decide

/-- R115: `FILL CH, 0, 2, FF` is two single-byte writes, and `PACK` is `WR CMD, 2`. -/
theorem test_pseudo_operations : HostMove.fill .ch 0 2 0xFF = [.wrm .ch 0 [0xFF], .wrm .ch 1 [0xFF]] ∧
    [HostMove.cap, HostMove.pack, HostMove.unpack] = [.wr 0 1, .wr 0 2, .wr 0 3] := by decide

/-! ## Witnesses: for each statement with hypotheses, a state and operands that meet them -/

theorem capReady_sample (np d n : Word) (h : np.toNat ≤ Config.largest.numpixMax) :
    (ready np d n 0 Space.undef Space.undef Space.undef).CapReady d n np :=
  ⟨rfl, rfl, rfl, rfl, h⟩

theorem small_legal : small.PackLegal 8 1 1 32 where
  idle := rfl
  depth := rfl
  fnlen := rfl
  numpix := rfl
  inRange := by decide
  plen := rfl
  legal := by decide
  short := by decide

theorem small_buffers : small.BuffersDefined 1 1 := by
  constructor <;> intro i hi <;> obtain rfl : i = 0 := by
    have : i < 1 := hi
    omega
  all_goals decide

theorem small_fits : Fits 8 1 1 32 := by decide

/-- Hypotheses of StepRunsCommand, in both views. -/
theorem witness_StepRunsCommand : ∃ (s s' : State) (w : Word) (i : Instr),
    s.cursor = none ∧ s.script = .wr 0x00 w :: [] ∧ decode w = .ok i ∧ s.cfg.view = .atomic ∧
    s'.cursor = none ∧ s'.script = .wr 0x00 w :: [] ∧ s'.cfg.view = .stepwise :=
  ⟨{ State.reset with script := [.wr 0 2] },
    { State.reset with cfg := { Config.largest with view := .stepwise }, script := [.wr 0 2] }, 2, .pack,
    rfl, rfl, by decide, rfl, rfl, rfl, rfl⟩

/-- Hypotheses of IllegalCommand at the words next to the command words. -/
theorem witness_IllegalCommand : ∃ (s : State) (w : Word),
    s.cursor = none ∧ s.script = .wr 0x00 w :: [] ∧ w ≠ 1 ∧ w ≠ 2 ∧ w ≠ 3 :=
  ⟨{ State.reset with script := [.wr 0 4] }, 4, rfl, rfl, by decide, by decide, by decide⟩

/-- Hypotheses of CapResult, at the largest stream (V9b). -/
theorem witness_CapResult : ∃ (s : State) (d n np : Word), s.CapReady d n np ∧ legalDepth d.toNat ∧ n.toNat ≤ 255 :=
  ⟨_, 8, 0, 0x1FFFFFFF, capReady_sample 0x1FFFFFFF 8 0 (by decide), by decide, by decide⟩

/-- Both clauses of CapOperandErrors, at 256 and at depth 9. -/
theorem witness_CapOperandErrors :
    (∃ (s : State) (d n np : Word), s.CapReady d n np ∧ 255 < n.toNat) ∧
    (∃ (s : State) (d n np : Word), s.CapReady d n np ∧ n.toNat ≤ 255 ∧ ¬ legalDepth d.toNat) :=
  ⟨⟨_, 0, 256, 40, capReady_sample 40 0 256 (by decide), by decide⟩,
    ⟨_, 9, 255, 40, capReady_sample 40 9 255 (by decide), by decide, by decide⟩⟩

/-- Hypotheses of CapSign, with a stream below 112 channels and with the zero of V6. -/
theorem witness_CapSign :
    (∃ (s : State) (d n np : Word), s.cfg.legal = true ∧ s.CapReady d n np ∧ legalDepth d.toNat ∧ n.toNat ≤ 255 ∧
      streamLen np < 112) ∧
    (∃ (s : State) (d n np : Word), s.cfg.legal = true ∧ s.CapReady d n np ∧ legalDepth d.toNat ∧ n.toNat ≤ 255 ∧
      used d.toNat (bodyBytes n.toNat 0) ≤ streamLen np ∧ streamLen np < used d.toNat (bodyBytes n.toNat 1)) :=
  ⟨⟨_, 1, 0, 27, by decide, capReady_sample 27 1 0 (by decide), by decide, by decide, by decide⟩,
    ⟨_, 5, 5, 32, by decide, capReady_sample 32 5 5 (by decide), by decide, by decide, by decide, by decide⟩⟩

theorem witness_CapRange : ∃ np d n : Nat, np ≤ 2 ^ 29 - 1 ∧ legalDepth d ∧ n ≤ 255 :=
  ⟨2 ^ 29 - 1, 8, 255, by decide, by decide, by decide⟩

theorem witness_CapMonotone : ∃ np d d' : Nat, 28 ≤ np ∧ d ≤ d' := ⟨28, 1, 8, by decide, by decide⟩

/-- Both clauses of PackFilenameTooLong, at 256 and at 255. -/
theorem witness_PackFilenameTooLong :
    (∃ (s : State) (n : Word), s.cursor = none ∧ s.pkFnlen = Reg.holds n ∧ s.numpixOver = false ∧ 255 < n.toNat) ∧
    (∃ (s t : State) (n : Word), s.cursor = none ∧ s.pkFnlen = Reg.holds n ∧ s.numpixOver = false ∧ n.toNat ≤ 255 ∧
      exec .pack s = .next t) :=
  ⟨⟨ready 1 9 256 0 Space.undef Space.undef Space.undef, 256, rfl, rfl, by decide, by decide⟩,
    ⟨ready 1 9 255 0 Space.undef Space.undef Space.undef, _, 255, rfl, rfl, by decide, by decide, rfl⟩⟩

theorem witness_PackInvalidDepth : ∃ (s : State) (d n : Word), s.cursor = none ∧ s.pkFnlen = Reg.holds n ∧
    n.toNat ≤ 255 ∧ s.pkDepth = Reg.holds d ∧ ¬ legalDepth d.toNat ∧ s.numpixOver = false :=
  ⟨ready 1 0 255 0 Space.undef Space.undef Space.undef, 0, 255, rfl, rfl, by decide, rfl, by decide, by decide⟩

/-- Hypotheses of PackEndState, CapacityExactness, PackIdempotent, RoundTrip, CorruptionDetected and PackSteps. -/
theorem witness_PackEndState : ∃ (s : State) (d n p np : Word),
    s.PackLegal d n p np ∧ s.BuffersDefined n p ∧ Fits d n p np ∧ s.ch.wf = true :=
  ⟨small, 8, 1, 1, 32, small_legal, small_buffers, small_fits, rfl⟩

/-- Both clauses of PackOverflow: one pixel, and 29 pixels where 117 channels are needed (V45). -/
theorem witness_PackOverflow :
    (∃ (s : State) (d n p np : Word), s.PackLegal d n p np ∧ s.ch.wf = true ∧ streamLen np < 112) ∧
    (∃ (s : State) (d n p np : Word), s.PackLegal d n p np ∧ s.ch.wf = true ∧ ¬ Fits d n p np) :=
  ⟨⟨ready 1 8 0 0 Space.undef Space.undef Space.undef, 8, 0, 0, 1,
      ⟨⟨⟨rfl, rfl, rfl, rfl, by decide⟩, rfl⟩, by decide, by decide⟩, rfl, by decide⟩,
    ⟨ready 29 8 0 0 Space.undef Space.undef Space.undef, 8, 0, 0, 29,
      ⟨⟨⟨rfl, rfl, rfl, rfl, by decide⟩, rfl⟩, by decide, by decide⟩, rfl, by decide⟩⟩

/-- Hypotheses of PackLowBitsOnly. -/
theorem witness_PackLowBitsOnly : ∃ (s t : State) (d n p np : Word),
    s.PackReady d n p np ∧ s.ch.wf = true ∧ exec .pack s = .next t :=
  ⟨ready 1 8 0 0 Space.undef Space.undef Space.undef, _, 8, 0, 0, 1, ⟨⟨rfl, rfl, rfl, rfl, by decide⟩, rfl⟩, rfl, rfl⟩

/-- The three clauses of PackStepOrder: the sequence written and the stream full, the stream full, and a bit to write. -/
theorem witness_PackStepOrder : ∃ (s : State) (np : Word) (c1 c2 c3 : Cursor), s.numpix = Reg.holds np ∧
    (c1.bc = totalBytes c1.ln.toNat c1.lp.toNat ∧ c1.ci = streamLen np) ∧
    (c2.bc ≠ totalBytes c2.ln.toNat c2.lp.toNat ∧ c2.ci = streamLen np) ∧
    (c3.bc ≠ totalBytes c3.ln.toNat c3.lp.toNat ∧ c3.ci ≠ streamLen np ∧ c3.bi < 8 ∧
      ∃ b, ser s.fni s.pli c3.ld c3.ln c3.lp c3.bc = some b) :=
  ⟨small, 32, { Cursor.create .packBody 8 1 1 with bc := 21, ci := 128 },
    { Cursor.create .packBody 8 1 1 with bc := 20, ci := 128 }, Cursor.create .packPreamble 8 1 1, rfl,
    ⟨by decide, by decide⟩, ⟨by decide, by decide⟩, ⟨by decide, by decide, by decide, 0x73, by decide⟩⟩

/-- Hypotheses of UnpackOutcome: a stream with every bit defined (the empty one of V25b, and V15's). -/
theorem witness_UnpackOutcome : ∃ (s : State) (np : Word), s.UnpackReady np ∧ streamLen np = 128 ∧
    (∀ i, i < streamLen np → ∀ q, q < 8 → (s.ch.readBit i q).isSome = true) :=
  ⟨u15, 32, ⟨rfl, rfl, by decide⟩, by decide, by decide +kernel⟩

/-- Hypotheses of UnpackSuccess: V15's stream. -/
theorem witness_UnpackSuccess : ∃ (s : State) (np : Word) (D N b0 b1 b2 b3 : Byte), s.UnpackReady np ∧
    (∀ k, k < 13 → streamByte s.ch 1 k = some (Config.magic.getD k 0)) ∧
    streamByte s.ch 1 13 = some D ∧ legalDepth D.toNat ∧ streamByte s.ch D.toNat 14 = some N ∧
    streamByte s.ch D.toNat (15 + N.toNat) = some b0 ∧ streamByte s.ch D.toNat (16 + N.toNat) = some b1 ∧
    streamByte s.ch D.toNat (17 + N.toNat) = some b2 ∧ streamByte s.ch D.toNat (18 + N.toNat) = some b3 ∧
    used D.toNat (bodyBytes N.toNat (unLe32 b0 b1 b2 b3).toNat) ≤ streamLen np ∧
    (∀ i, i < N.toNat → (streamByte s.ch D.toNat (15 + i)).isSome = true) ∧
    (∀ i, i < (unLe32 b0 b1 b2 b3).toNat → (streamByte s.ch D.toNat (19 + N.toNat + i)).isSome = true) :=
  ⟨u15, 32, 3, 0, 0, 0, 0, 0, ⟨rfl, rfl, by decide⟩, by decide +kernel, by decide +kernel, by decide,
    by decide +kernel, by decide +kernel, by decide +kernel, by decide +kernel, by decide +kernel, by decide,
    by decide, by decide⟩

/-- Hypotheses of UnpackReadsItsBits: V15's stream, read again. -/
theorem witness_UnpackReadsItsBits : ∃ (s t : State) (ch' : Space), exec .unpack s = .next t ∧ t.errcode = none ∧
    (∀ j, j < 8 * totalBytes t.upFnlen.val.toNat t.upPlen.val.toNat →
      streamBit ch' t.upDepth.val.toNat j = streamBit s.ch t.upDepth.val.toNat j) := by
  obtain ⟨t, ht, hp⟩ := nextIs_exists (o := exec .unpack u15) (p := fun t => t.errcode == none) (by decide +kernel)
  exact ⟨u15, t, u15.ch, ht, by simpa using hp, fun _ _ => rfl⟩

/-- Hypotheses of UnpackFailure and, for a command that failed, of NonRetryable. -/
theorem witness_UnpackFailure : ∃ (s t : State) (e : ErrKind), exec .unpack s = .next t ∧ t.errcode = some e :=
  ⟨State.reset, _, .truncatedStream, rfl, rfl⟩

theorem witness_NonRetryable : ∃ (i : Instr) (s t : State) (e : ErrKind), exec i s = .next t ∧ t.errcode = some e :=
  ⟨.pack, ready 1 8 0 0 Space.undef Space.undef Space.undef, _, .capacityExceeded, rfl, rfl⟩

/-- Hypotheses of UnpackStart and UnpackSteps. -/
theorem witness_UnpackStart : ∃ (s : State) (np : Word), s.UnpackReady np := ⟨u15, 32, ⟨rfl, rfl, by decide⟩⟩

/-- The clauses of ReadStepEffect: the end of the stream, an undef bit, a defined bit inside a byte, and at bit 7 the bytes
where the cases of `StoreByte` meet (12 to 15, and with `LN` = 1 the filename byte, the length bytes and the payload byte). -/
theorem witness_ReadStepEffect : ∃ (s : State) (np : Word) (c1 c2 : Cursor), s.numpix = Reg.holds np ∧
    c1.ci = streamLen np ∧ (c2.ci ≠ streamLen np ∧ s.ch.readBit c2.ci c2.bp = none) ∧
    (∃ (c3 : Cursor) (v : Bool), c3.ci ≠ streamLen np ∧ s.ch.readBit c3.ci c3.bp = some v ∧ c3.bi < 7 ∧
      c3.transition = .stay) ∧
    ∀ k ∈ [12, 13, 14, 15, 16, 19, 20], ∃ (c4 : Cursor) (v : Bool), c4.ci ≠ streamLen np ∧
      s.ch.readBit c4.ci c4.bp = some v ∧ c4.bi = 7 ∧ c4.bc = k ∧ c4.ln = 1 :=
  ⟨ready 1 0 0 0 (spaceOf [0x01]) Space.undef Space.undef, 1, { Cursor.create .readingMagic 0 0 0 with ci := 4 },
    { Cursor.create .readingMagic 0 0 0 with ci := 1 }, rfl, by decide, ⟨by decide, by decide⟩,
    ⟨Cursor.create .readingMagic 0 0 0, true, by decide, by decide, by decide, by decide⟩,
    fun k _ => ⟨{ Cursor.create .readingMagic 0 1 0 with bi := 7, bc := k }, true,
      (by decide : (0 : Nat) ≠ streamLen 1), (by decide : (spaceOf [0x01]).readBit 0 0 = some true), rfl, rfl, rfl⟩⟩

/-- Hypotheses of PhaseOrder: the first bit of a stream. -/
theorem witness_PhaseOrder : ∃ (s t : State) (c c' : Cursor), c.ph.ofUnpack = true ∧ unpackStep s c = .next t ∧
    t.cursor = some c' :=
  ⟨ready 1 0 0 0 (spaceOf [0x01]) Space.undef Space.undef, _, Cursor.create .readingMagic 0 0 0, _, rfl, rfl, rfl⟩

/-- Hypotheses of both clauses of WhoWritesWhat. -/
theorem witness_WhoWritesWhat :
    (∃ (i : Instr) (s t : State), exec i s = .next t) ∧
    (∃ (s t : State) (c : Cursor), s.cursor = some c ∧ engineStep s = .next t) := by
  refine ⟨⟨.cap, State.reset, _, rfl⟩, ?_⟩
  obtain ⟨t, ht, -⟩ := nextIs_exists (o := engineStep running) (p := fun _ => true) (by decide)
  exact ⟨running, t, _, rfl, ht⟩

/-- Hypotheses of SerializedLayout: filename `k`, payload `A5`. -/
theorem witness_SerializedLayout : ∃ (fni pli : Space) (d n p : Word) (name payload : List Byte),
    legalDepth d.toNat ∧ n.toNat ≤ 255 ∧ name.length = n.toNat ∧ payload.length = p.toNat ∧
    (∀ i, i < n.toNat → fni.readByte i = name[i]?) ∧ (∀ i, i < p.toNat → pli.readByte i = payload[i]?) := by
  refine ⟨spaceOf [0x6B], spaceOf [0xA5], 8, 1, 1, [0x6B], [0xA5], by decide, by decide, by decide, by decide, ?_, ?_⟩ <;>
    intro i hi <;> obtain rfl : i = 0 := by
      have : i < 1 := hi
      omega
  all_goals decide

/-- Hypotheses of PlaceOrdered at the phase switch, and of UsedExact. -/
theorem witness_PlaceOrdered : ∃ d j j' : Nat, 1 ≤ d ∧ j < 112 ∧ 112 ≤ j' ∧ j < j' :=
  ⟨8, 111, 112, by decide, by decide, by decide, by decide⟩

theorem witness_UsedExact : ∃ d r : Nat, 1 ≤ d ∧ 1 ≤ r := ⟨3, 5, by decide, by decide⟩

/-- Hypotheses of both clauses of ByteFromBits. -/
theorem witness_ByteFromBits :
    (∃ (fni pli : Space) (d n p : Word) (j : Nat) (b : Byte), ser fni pli d n p (j / 8) = some b) ∧
    (∃ (ch : Space) (d k : Nat) (b : Byte), streamByte ch d k = some b) :=
  ⟨⟨Space.undef, Space.undef, 8, 0, 0, 0, 0x73, by decide⟩, ⟨spaceOf (List.replicate 8 1), 1, 0, 0xFF, by decide⟩⟩

theorem witness_WriteBitLaw : ∃ (sp : Space) (p : Nat), sp.wf = true ∧ p < 8 := ⟨Space.undef, 7, rfl, by decide⟩

/-- Hypotheses of HostRegisterWrite: on an idle engine every register number of its clauses (`CMD`, the four input registers,
the six read-only ones), and a running command. -/
theorem witness_HostRegisterWrite :
    (∀ reg ∈ [0x00, 0x03, 0x04, 0x05, 0x06, 0x01, 0x02, 0x07, 0x08, 0x09, 0x0A], ∃ (s : State) (v : Word),
      s.script = .wr reg v :: [] ∧ s.cursor = none) ∧
    (∃ (s : State) (v : Word), s.script = .wr 0x00 v :: [] ∧ s.cursor ≠ none) :=
  ⟨fun reg _ => ⟨{ State.reset with script := [.wr reg 58] }, 58, rfl, rfl⟩,
    ⟨{ running with script := [.wr 0 58] }, 58, rfl, by decide⟩⟩

/-- Hypotheses of ReservedAndReadOnly: the first reserved number, a read-only register, an output space. -/
theorem witness_ReservedAndReadOnly : ∃ s s' s'' : State, s.cursor = none ∧ s'.cursor = none ∧ s''.cursor = none ∧
    s.script = .rd 0x0B :: [] ∧ s'.script = .wr 0x0A 1 :: [] ∧ s''.script = .wrm .fno 254 [1] :: [] ∧
    254 + [(1 : Byte)].length ≤ spaceSize s''.cfg .fno :=
  ⟨{ State.reset with script := [.rd 0x0B] }, { State.reset with script := [.wr 0x0A 1] },
    { State.reset with script := [.wrm .fno 254 [1]] }, rfl, rfl, rfl, rfl, rfl, rfl, by decide⟩

theorem witness_HostRegisterRead : ∃ (s : State) (reg : Nat), s.cursor = none ∧ s.script = .rd reg :: [] ∧ reg ≤ 0x0A :=
  ⟨{ State.reset with script := [.rd 0x0A] }, 0x0A, rfl, rfl, by decide⟩

/-- Both clauses of HostBufferRead, at the last byte of `FNI` and one past it. -/
theorem witness_HostBufferRead : ∃ s s' : State, s.cursor = none ∧ s'.cursor = none ∧
    s.script = .rdm .fni 254 1 :: [] ∧ 254 + 1 ≤ spaceSize s.cfg .fni ∧
    s'.script = .rdm .fni 254 2 :: [] ∧ spaceSize s'.cfg .fni < 254 + 2 :=
  ⟨{ State.reset with script := [.rdm .fni 254 1] }, { State.reset with script := [.rdm .fni 254 2] },
    rfl, rfl, rfl, by decide, rfl, by decide⟩

/-- Both clauses of HostBufferWrite. -/
theorem witness_HostBufferWrite : ∃ s s' : State, s.cursor = none ∧ s'.cursor = none ∧
    s.script = .wrm .fni 254 [1] :: [] ∧ (s.space .fni).wf = true ∧ 254 + [(1 : Byte)].length ≤ spaceSize s.cfg .fni ∧
    s'.script = .wrm .fni 255 [1] :: [] ∧ (s'.space .fni).wf = true ∧
    spaceSize s'.cfg .fni < 255 + [(1 : Byte)].length :=
  ⟨{ State.reset with script := [.wrm .fni 254 [1]] }, { State.reset with script := [.wrm .fni 255 [1]] },
    rfl, rfl, rfl, rfl, by decide, rfl, rfl, by decide⟩

theorem witness_BusyHostMoves : ∃ (s : State) (m : HostMove), s.cursor ≠ none ∧ s.script = m :: [] :=
  ⟨{ running with script := [.rd 1] }, .rd 1, by decide, rfl⟩

/-- The three clauses of WaitEnds. -/
theorem witness_WaitEnds : ∃ s s' s'' : State, s.cursor = none ∧ s.script = .wait :: [] ∧ s.done = true ∧
    s'.cursor = none ∧ s'.script = .wait :: [] ∧ s'.done = false ∧ s''.cursor = none ∧ s''.script = [] :=
  ⟨{ State.reset with script := [.wait], done := true }, { State.reset with script := [.wait] }, State.reset,
    rfl, rfl, rfl, rfl, rfl, rfl, rfl, rfl⟩

/-- Hypotheses of BusyStatus: a PACK started and not yet run. -/
theorem witness_BusyStatus : ∃ (i : Instr) (s t : State) (fuel : Nat), runCommand fuel i s = .next t ∧ t.cursor ≠ none := by
  obtain ⟨t, ht, hp⟩ := nextIs_exists (o := runCommand 0 .pack small) (p := fun t => t.cursor.isSome) (by decide)
  refine ⟨.pack, small, t, 0, ht, fun h => ?_⟩
  rw [h] at hp
  cases hp

theorem witness_ResetAnyTime : ∃ s : State, s.script = .reset :: [] ∧ s.cursor ≠ none :=
  ⟨{ running with script := [.reset] }, rfl, by decide⟩

theorem witness_NumpixTooLarge : ∃ (s : State) (np : Word), s.cursor = none ∧ s.numpix = Reg.holds np ∧
    s.cfg.numpixMax < np.toNat :=
  ⟨ready 0x20000000 8 0 0 Space.undef Space.undef Space.undef, 0x20000000, rfl, rfl, by decide⟩

/-- The magic and a depth byte of 8 in a 32-pixel stream, then body channels as given: `FE` in a preamble channel is a 0. -/
def u8 (body : List Byte) : State :=
  ready 32 0 0 0 (spaceOf (magicBits ++ [0xFE, 0xFE, 0xFE, 0xFF, 0xFE, 0xFE, 0xFE, 0xFE] ++ body)) Space.undef Space.undef

/-- UNPACK's clauses of UndefOperandRefused: an undef bit of the magic (the last), of the depth byte (the first), of the
filename length, of the payload length (`N` = 0), and of the payload (`P` = 1, its first and last bit). -/
theorem witness_UndefOperandRefused_unpack :
    (∃ (s : State) (np : Word), s.UnpackReady np ∧ 103 < streamLen np ∧ s.ch.readBit 103 0 = none) ∧
    (∃ (s : State) (np : Word), s.UnpackReady np ∧
      (∀ k, k < 13 → streamByte s.ch 1 k = some (Config.magic.getD k 0)) ∧
      104 < streamLen np ∧ s.ch.readBit 104 0 = none) ∧
    (∃ (s : State) (np : Word), s.UnpackReady np ∧
      (∀ k, k < 13 → streamByte s.ch 1 k = some (Config.magic.getD k 0)) ∧ streamByte s.ch 1 13 = some 8 ∧
      119 < streamBits (streamLen np) 8 ∧ streamBit s.ch 8 119 = none) ∧
    (∃ (s : State) (np : Word), s.UnpackReady np ∧
      (∀ k, k < 13 → streamByte s.ch 1 k = some (Config.magic.getD k 0)) ∧ streamByte s.ch 1 13 = some 8 ∧
      streamByte s.ch 8 14 = some 0 ∧ 151 < streamBits (streamLen np) 8 ∧ streamBit s.ch 8 151 = none) ∧
    (∃ (s : State) (np : Word), s.UnpackReady np ∧
      (∀ k, k < 13 → streamByte s.ch 1 k = some (Config.magic.getD k 0)) ∧ streamByte s.ch 1 13 = some 8 ∧
      streamByte s.ch 8 14 = some 0 ∧ streamByte s.ch 8 15 = some 1 ∧ streamByte s.ch 8 16 = some 0 ∧
      streamByte s.ch 8 17 = some 0 ∧ streamByte s.ch 8 18 = some 0 ∧ (unLe32 1 0 0 0).toNat = 1 ∧
      159 < streamBits (streamLen np) 8 ∧ streamBit s.ch 8 152 = none ∧ streamBit s.ch 8 159 = none) :=
  ⟨⟨small, 32, ⟨rfl, rfl, by decide⟩, by decide, by decide⟩,
    ⟨ready 32 0 0 0 (spaceOf magicBits) Space.undef Space.undef, 32, ⟨rfl, rfl, by decide⟩, by decide +kernel, by decide,
      by decide +kernel⟩,
    ⟨u8 [], 32, ⟨rfl, rfl, by decide⟩, by decide +kernel, by decide +kernel, by decide, by decide +kernel⟩,
    ⟨u8 [0], 32, ⟨rfl, rfl, by decide⟩, by decide +kernel, by decide +kernel, by decide +kernel, by decide,
      by decide +kernel⟩,
    ⟨u8 [0, 1, 0, 0, 0], 32, ⟨rfl, rfl, by decide⟩, by decide +kernel, by decide +kernel, by decide +kernel,
      by decide +kernel, by decide +kernel, by decide +kernel, by decide +kernel, by decide, by decide,
      by decide +kernel, by decide +kernel⟩⟩

/-- UndefOperandRefused: a PACK that fits with an undef filename byte, and each register clause. -/
theorem witness_UndefOperandRefused :
    (∃ (s : State) (d n p np : Word), s.PackLegal d n p np ∧ Fits d n p np ∧ ¬ s.BuffersDefined n p) ∧
    (∃ s : State, s.cfg.undefRegs = .refuse ∧ s.cursor = none ∧ s.numpixOver = false ∧ s.pkFnlen.defined = false ∧
      s.numpix.defined = false) ∧
    (∃ (s : State) (d n : Word), s.cfg.undefRegs = .refuse ∧ s.cursor = none ∧ s.numpixOver = false ∧
      s.pkFnlen = Reg.holds n ∧ n.toNat ≤ 255 ∧ s.pkDepth = Reg.holds d ∧ legalDepth d.toNat ∧
      s.pkPlen.defined = false) ∧
    (∃ (s : State) (d n p : Word), s.cfg.undefRegs = .refuse ∧ s.cursor = none ∧ s.numpixOver = false ∧
      s.pkFnlen = Reg.holds n ∧ n.toNat ≤ 255 ∧ s.pkDepth = Reg.holds d ∧ legalDepth d.toNat ∧
      s.pkPlen = Reg.holds p ∧ s.numpix.defined = false) ∧
    (∃ (s : State) (n : Word), s.cfg.undefRegs = .refuse ∧ s.cursor = none ∧ s.numpixOver = false ∧
      s.pkFnlen = Reg.holds n ∧ n.toNat ≤ 255 ∧ s.pkDepth.defined = false) := by
  let r : State := { State.reset with cfg := { Config.largest with undefRegs := .refuse } }
  refine ⟨⟨ready 32 8 1 0 Space.undef Space.undef Space.undef, 8, 1, 0, 32,
      ⟨⟨⟨rfl, rfl, rfl, rfl, by decide⟩, rfl⟩, by decide, by decide⟩, by decide, fun h => ?_⟩,
    ⟨r, rfl, rfl, by decide, rfl, rfl⟩,
    ⟨{ r with pkFnlen := Reg.holds 0, pkDepth := Reg.holds 8, numpix := Reg.holds 32 },
      8, 0, rfl, rfl, by decide, rfl, by decide, rfl, by decide, rfl⟩,
    ⟨{ r with pkFnlen := Reg.holds 255, pkDepth := Reg.holds 1, pkPlen := Reg.holds 0 },
      1, 255, 0, rfl, rfl, by decide, rfl, by decide, rfl, by decide, rfl, rfl⟩,
    ⟨{ r with pkFnlen := Reg.holds 255 }, 255, rfl, rfl, by decide, rfl, by decide, rfl⟩⟩
  have := h.1 0 (by decide)
  revert this
  decide

/-- The clauses of TransitionsRepeat: each row of R160 at its byte count, with `LN` = 1 and `LP` = 1, and a cursor between rows. -/
theorem witness_TransitionsRepeat :
    (∀ pk ∈ [(Phase.readingMagic, 13), (.readingBitDepth, 14), (.readingFilenameLength, 15), (.readingFilename, 16),
        (.readingPayloadLength, 20), (.readingPayload, 21)],
      ∃ c : Cursor, c.ph = pk.1 ∧ c.bc = pk.2 ∧ c.ln.toNat = 1 ∧ c.lp.toNat = 1) ∧
    (∃ c : Cursor, (c.ph, c.bc) ≠ (.readingMagic, 13) ∧ (c.ph, c.bc) ≠ (.readingBitDepth, 14) ∧
      (c.ph, c.bc) ≠ (.readingFilenameLength, 15) ∧ (c.ph, c.bc) ≠ (.readingFilename, 15 + c.ln.toNat) ∧
      (c.ph, c.bc) ≠ (.readingPayloadLength, 19 + c.ln.toNat) ∧
      (c.ph, c.bc) ≠ (.readingPayload, 19 + c.ln.toNat + c.lp.toNat)) :=
  ⟨fun pk _ => ⟨{ Cursor.create pk.1 8 1 1 with bc := pk.2 }, rfl, rfl, rfl, rfl⟩,
    ⟨Cursor.create .readingMagic 0 0 0, by decide, by decide, by decide, by decide, by decide, by decide⟩⟩

theorem running_canonical : running.Canonical := ⟨rfl, by decide, by decide, rfl, rfl⟩

/-- Hypotheses of StepKeepsCanonical: a PACK running. -/
theorem witness_StepKeepsCanonical : ∃ s t : State, s.Canonical ∧ step s = .next t := by
  obtain ⟨t, ht, -⟩ := nextIs_exists (o := step running) (p := fun _ => true) (by decide)
  exact ⟨running, t, running_canonical, ht⟩

theorem running_flags : running.FlagsOk :=
  ⟨fun h => (by cases h), fun h => (by cases h), rfl, by decide⟩

theorem witness_StepKeepsFlags : ∃ s t : State, s.FlagsOk ∧ step s = .next t := by
  obtain ⟨t, ht, -⟩ := nextIs_exists (o := step running) (p := fun _ => true) (by decide)
  exact ⟨running, t, running_flags, ht⟩

theorem running_cursor : running.CursorOk :=
  ⟨⟨⟨by decide, by decide, .inl (by decide)⟩, by decide⟩,
    fun _ => ⟨by decide, by decide, by decide, ⟨rfl, rfl, rfl⟩⟩, fun h => (by cases h)⟩

theorem witness_StepKeepsCursor : ∃ s t : State, s.CursorOk ∧ step s = .next t := by
  obtain ⟨t, ht, -⟩ := nextIs_exists (o := step running) (p := fun _ => true) (by decide)
  exact ⟨running, t, running_cursor, ht⟩

/-- Hypotheses of StepKeepsInv: a PACK of an empty record just started. -/
theorem witness_StepKeepsInv : ∃ s t : State, s.Inv ∧ step s = .next t := by
  let s : State := { ready 32 8 0 0 Space.undef Space.undef Space.undef with
    cursor := some (Cursor.create .packPreamble 8 0 0) }
  obtain ⟨t, ht, -⟩ := nextIs_exists (o := step s) (p := fun _ => true) (by decide)
  refine ⟨s, t, ⟨by decide, ⟨rfl, rfl, rfl, rfl, rfl⟩, ⟨fun h => (by cases h), fun h => (by cases h), rfl, by decide⟩, ?_,
    fun name a _ => (by cases name <;> rfl), ⟨fun h => (by cases h), fun _ => ⟨rfl, rfl, rfl⟩, fun _ _ => ⟨rfl, rfl⟩, ?_⟩⟩, ht⟩
  · exact ⟨⟨⟨by decide, by decide, .inl (by decide)⟩, by decide⟩,
      fun _ => ⟨by decide, by decide, by decide, ⟨rfl, rfl, rfl⟩⟩, fun h => (by cases h)⟩
  · rintro c ⟨⟩ h
    cases h

end Sys2Proof.Tests
end

section
/-! PROOFS. What a step of the machine can do, case by case with names: a command run whole, its start, and one step of its
engine. A property kept in each of these cases and by the host's moves is kept by every step. -/

namespace Sys2Proof.Machine

/-! ## Operands and the start of a command -/

@[simp] theorem State.withOperand_holds (s : State) (v : Word) (k : Word → Host.Outcome State Fault Refusal) :
    s.withOperand (Reg.holds v) k = k v := rfl

/-- Where the parameters refuse `undef` registers, a command that comes to one is refused (R21). -/
theorem State.withOperand_undef {s : State} {r : Reg} (k : Word → Host.Outcome State Fault Refusal)
    (hcfg : s.cfg.undefRegs = .refuse) (hr : r.defined = false) : s.withOperand r k = .refused .undefOperand := by
  simp [State.withOperand, Reg.operand, hr, hcfg]

/-- A command with a legal `NUMPIX` on an idle engine runs its body. -/
theorem State.begin_idle {s : State} (body : State → Host.Outcome State Fault Refusal) (hidle : s.cursor = none)
    (hnp : s.numpixOver = false) : s.begin body = body s.started := by
  simp [State.begin, State.busy, hidle, hnp]

theorem State.numpixOver_holds {s : State} {np : Word} (h : s.numpix = Reg.holds np) :
    s.numpixOver = decide (s.cfg.numpixMax < np.toNat) := by
  simp [State.numpixOver, h]

/-- A `NUMPIX` that a command gets as its operand is at most `NUMPIX_MAX` (R31). -/
theorem State.numpix_le {s : State} {np : Word} (hover : s.numpixOver = false)
    (h : s.numpix.operand s.cfg = some np) : s.numpix.val.toNat ≤ s.cfg.numpixMax := by
  rw [← Reg.operand_val h]
  simpa [State.numpixOver, h] using hover

/-! ## The outcome of UNPACK's closed form -/

/-- What every outcome of UNPACK on a stream of `len` channels satisfies: its error is one of three kinds (R167), and a record
it delivers is legal and lies inside the stream (R168, R169). -/
def UnpackResult.Sound (len : Nat) : UnpackResult → Prop
  | .undef => True
  | .error e => e = .truncatedStream ∨ e = .magicMismatch ∨ e = .invalidBitDepth
  | .ok d n name p payload =>
    legalDepth d.toNat ∧ name.length = n.toNat ∧ payload.length = p.toNat ∧
      used d.toNat (bodyBytes n.toNat p.toNat) ≤ len

theorem streamBytes_length {ch : Space} {d k n : Nat} {bs : List Byte} (h : streamBytes ch d k n = some bs) :
    bs.length = n := by
  induction n generalizing k bs with
  | zero => cases h; rfl
  | succ n ih =>
    simp only [streamBytes] at h
    split at h
    · rename_i b bs' _ htail
      cases h
      simp [ih htail]
    · cases h

theorem unpackTruncated_sound (ch : Space) (len len' d : Nat) : (unpackTruncated ch len d).Sound len' := by
  unfold unpackTruncated
  split_ifs
  · exact .inl rfl
  · trivial

theorem unpackPayload_sound (ch : Space) (len : Nat) {d n : Byte} (p : Word) (hd : legalDepth d.toNat) :
    (unpackPayload ch len d n p).Sound len := by
  unfold unpackPayload
  split_ifs with hlen
  · exact unpackTruncated_sound ..
  · split
    · rename_i name payload hname hpayload
      exact ⟨hd, streamBytes_length hname, streamBytes_length hpayload, by omega⟩
    · trivial

theorem unpackLengths_sound (ch : Space) (len : Nat) {d : Byte} (n : Byte) (hd : legalDepth d.toNat) :
    (unpackLengths ch len d n).Sound len := by
  unfold unpackLengths
  split
  · exact unpackTruncated_sound ..
  · split
    · split
      · exact unpackPayload_sound ch len _ hd
      · trivial
    · trivial

theorem unpackBody_sound (ch : Space) (len : Nat) {d : Byte} (hd : legalDepth d.toNat) :
    (unpackBody ch len d).Sound len := by
  unfold unpackBody
  split_ifs
  · exact unpackTruncated_sound ..
  · split
    · exact unpackLengths_sound ch len _ hd
    · trivial

theorem unpackDepth_sound (ch : Space) (len : Nat) : (unpackDepth ch len).Sound len := by
  unfold unpackDepth
  split_ifs
  · exact unpackTruncated_sound ..
  · split
    · split_ifs with hd
      · exact .inr (.inr rfl)
      · exact unpackBody_sound ch len ⟨by omega, by omega⟩
    · trivial

theorem unpackStream_sound (ch : Space) (len : Nat) : (unpackStream ch len).Sound len := by
  unfold unpackStream
  split_ifs
  · exact unpackTruncated_sound ..
  · split
    · split_ifs
      · exact .inr (.inl rfl)
      · exact unpackDepth_sound ch len
    · trivial

/-! ## The results of a command, of its start and of one step of its engine -/

/-- How a command run whole can end (R120 to R122, R131, R132, R137 to R139, R167 to R169). -/
inductive ExecResult (s : State) : Instr → State → Prop
  | capFailed (e : ErrKind) (he : e ≠ .ioFailure) : ExecResult s .cap (s.started.capFail e)
  | capDone (v : Word) : ExecResult s .cap { s.started with capres := Reg.holds v }.complete
  | packFailed (e : ErrKind) (he : e ≠ .ioFailure) : ExecResult s .pack (s.started.fail e)
  | packOverflow (d : Nat) : ExecResult s .pack (s.started.packOverflow (streamLen s.numpix.val) d)
  | packDone (d n p : Word) (ch : Space) (hd : legalDepth d.toNat) (hn : n.toNat ≤ 255)
      (hnp : s.numpix.val.toNat ≤ s.cfg.numpixMax)
      (hfits : used d.toNat (bodyBytes n.toNat p.toNat) ≤ streamLen s.numpix.val)
      (hch : packStream s.started d n p = some ch) : ExecResult s .pack { s.started with ch := ch }.complete
  | unpackFailed (e : ErrKind) (he : e ≠ .ioFailure) : ExecResult s .unpack (s.started.dropOutput.fail e)
  | unpackDone (d n : Byte) (name : List Byte) (p : Word) (payload : List Byte) (hd : legalDepth d.toNat)
      (hname : name.length = n.toNat) (hpayload : payload.length = p.toNat)
      (hnp : s.numpix.val.toNat ≤ s.cfg.numpixMax)
      (hfits : used d.toNat (bodyBytes n.toNat p.toNat) ≤ streamLen s.numpix.val) :
      ExecResult s .unpack (s.started.dropOutput.deliver d n name p payload).complete

theorem exec_result {i : Instr} {s t : State} (h : exec i s = .next t) : s.cursor = none ∧ ExecResult s i t := by
  obtain ⟨hbusy, hover, hbody⟩ := exec_next h
  refine ⟨s.busy_false_iff.1 hbusy, ?_⟩
  rcases hbody with ⟨rfl, hcap⟩ | ⟨rfl, hpack⟩ | ⟨rfl, np, hnp, hunpack⟩
  · rcases capCompute_next hcap with ⟨e, he, rfl⟩ | ⟨v, rfl⟩
    · exact .capFailed e (by rcases he with rfl | rfl <;> decide)
    · exact .capDone v
  · rcases packChecked_next hpack with ⟨e, he, rfl⟩ | ⟨d, n, p, np, -, -, -, hnp, hd, hn, hwrite⟩
    · exact .packFailed e (by rcases he with rfl | rfl <;> decide)
    · have hle := s.numpix_le hover hnp
      obtain rfl := Reg.operand_val hnp
      rcases packWrite_next hwrite with ⟨ch, hfits, hch, rfl⟩ | ⟨-, rfl⟩
      · exact .packDone d n p ch hd hn hle (of_decide_eq_true hfits) hch
      · exact .packOverflow d.toNat
  · have hle := s.numpix_le hover hnp
    obtain rfl := Reg.operand_val hnp
    have hsound := unpackStream_sound s.ch (streamLen s.numpix.val)
    rcases unpackRead_next hunpack with ⟨e, hu, rfl⟩ | ⟨d, n, name, p, payload, hu, rfl⟩
    · rw [State.dropOutput_ch, State.started_ch] at hu
      rw [hu] at hsound
      exact .unpackFailed e (by rcases hsound with rfl | rfl | rfl <;> decide)
    · rw [State.dropOutput_ch, State.started_ch] at hu
      rw [hu] at hsound
      obtain ⟨hd, hname, hpayload, hfits⟩ := hsound
      exact .unpackDone d n name p payload hd hname hpayload hle hfits

/-- How the start of a command can end (R120, R130 to R132, R150, R151). -/
inductive StartResult (s : State) : State → Prop
  | cap : StartResult s { s.started with cursor := some (Cursor.create .capCompute 0 0 0) }
  | packFailed (e : ErrKind) (he : e ≠ .ioFailure) : StartResult s (s.started.fail e)
  | pack (d n p : Word) (hd : legalDepth d.toNat) (hn : n.toNat ≤ 255) (hnp : s.numpix.val.toNat ≤ s.cfg.numpixMax) :
      StartResult s { s.started with cursor := some (Cursor.create .packPreamble d n p) }
  | unpack (hnp : s.numpix.val.toNat ≤ s.cfg.numpixMax) :
      StartResult s { s.started.dropOutput with cursor := some (Cursor.create .readingMagic 0 0 0) }

theorem start_result {i : Instr} {s t : State} (h : start i s = .next t) : s.cursor = none ∧ StartResult s t := by
  unfold start at h
  cases i with
  | cap =>
    obtain ⟨hbusy, -, hbody⟩ := State.begin_next.1 h
    refine ⟨s.busy_false_iff.1 hbusy, ?_⟩
    cases hbody
    exact .cap
  | pack =>
    obtain ⟨hbusy, hover, hbody⟩ := State.begin_next.1 h
    refine ⟨s.busy_false_iff.1 hbusy, ?_⟩
    rcases packChecked_next hbody with ⟨e, he, rfl⟩ | ⟨d, n, p, np, -, -, -, hnp, hd, hn, hcreate⟩
    · exact .packFailed e (by rcases he with rfl | rfl <;> decide)
    · cases hcreate
      exact .pack d n p hd hn (s.numpix_le hover hnp)
  | unpack =>
    obtain ⟨hbusy, hover, hbody⟩ := State.begin_next.1 h
    obtain ⟨np, hnp, hcreate⟩ := State.withOperand_next.1 hbody
    refine ⟨s.busy_false_iff.1 hbusy, ?_⟩
    cases hcreate
    exact .unpack (s.numpix_le hover hnp)

/-- What one step of the engine at cursor `c` can do (R120, R135, R150). -/
inductive EngineResult (s : State) (c : Cursor) : State → Prop
  | capFailed (e : ErrKind) (hph : c.ph = .capCompute) (he : e ≠ .ioFailure) : EngineResult s c (s.capFail e)
  | capDone (v : Word) (hph : c.ph = .capCompute) : EngineResult s c { s with capres := Reg.holds v }.complete
  | packDone (hph : c.ph = .packPreamble ∨ c.ph = .packBody) : EngineResult s c s.complete
  | packOverflow (hph : c.ph = .packPreamble ∨ c.ph = .packBody) :
      EngineResult s c (s.packOverflow (streamLen s.numpix.val) c.ld.toNat)
  | packWrote (v : Bool) (hph : c.ph = .packPreamble ∨ c.ph = .packBody)
      (hbc : c.bc ≠ totalBytes c.ln.toNat c.lp.toNat) (hci : c.ci ≠ streamLen s.numpix.val) :
      EngineResult s c { s with ch := s.ch.writeBit c.ci c.bp v, cursor := some c.packNext }
  | packPassed (hph : c.ph = .packPreamble ∨ c.ph = .packBody)
      (hbc : c.bc ≠ totalBytes c.ln.toNat c.lp.toNat) (hci : c.ci ≠ streamLen s.numpix.val) :
      EngineResult s c { s with cursor := some c.packNext }
  | unpackExhausted (hph : c.ph.ofUnpack = true) : EngineResult s c (s.dropOutput.fail .truncatedStream)
  | unpackTurn (v : Bool) (hph : c.ph.ofUnpack = true) (hci : c.ci ≠ streamLen s.numpix.val) :
      EngineResult s c (transitions 7 (s.readNext c v) (c.readNext v))

theorem packStep_result {s t : State} {c : Cursor} (hph : c.ph = .packPreamble ∨ c.ph = .packBody)
    (h : packStep s c = .next t) : EngineResult s c t := by
  obtain ⟨np, hnp, hcases⟩ := packStep_next h
  obtain rfl := Reg.operand_val hnp
  rcases hcases with ⟨-, rfl⟩ | ⟨-, -, rfl⟩ | ⟨hbc, hci, v, -, rfl⟩ | ⟨hbc, hci, -, rfl⟩
  · exact .packDone hph
  · exact .packOverflow hph
  · exact .packWrote v hph hbc hci
  · exact .packPassed hph hbc hci

theorem unpackStep_result {s t : State} {c : Cursor} (hph : c.ph.ofUnpack = true) (h : unpackStep s c = .next t) :
    EngineResult s c t := by
  obtain ⟨np, hnp, hcases⟩ := unpackStep_next h
  obtain rfl := Reg.operand_val hnp
  rcases hcases with ⟨-, rfl⟩ | ⟨hci, v, -, rfl⟩
  · exact .unpackExhausted hph
  · exact .unpackTurn v hph hci

theorem engineStep_result {s t : State} {c : Cursor} (hc : s.cursor = some c) (h : engineStep s = .next t) :
    EngineResult s c t := by
  rcases engineStep_next h with ⟨hnone, -⟩ | ⟨c', hc', hph, hcap⟩ | ⟨c', hc', hph, hpack⟩ |
    ⟨c', hc', hph, hunpack⟩
  · rw [hc] at hnone; cases hnone
  all_goals obtain rfl : c' = c := Option.some.inj (hc'.symm.trans hc)
  · rcases capCompute_next hcap with ⟨e, he, rfl⟩ | ⟨v, rfl⟩
    · exact .capFailed e hph (by rcases he with rfl | rfl <;> decide)
    · exact .capDone v hph
  · exact packStep_result hph hpack
  · exact unpackStep_result hph hunpack

/-! ## The induction over steps -/

/-- `P` is kept by everything of which a step of the machine is made. -/
structure KeptByMoves (P : State → Prop) : Prop where
  /-- The host's script, what it has read, and the counter of free values do not matter. -/
  hostSide {s : State} (script : List HostMove) (replies : List Reply) (fresh : Nat) (hs : P s) :
    P { s with script := script, replies := replies, fresh := fresh }
  hostWrite {s t : State} {v : Word} {reg : Nat} : P s → s.cursor = none → s.hostWrite v reg = some t → P t
  hostWriteBytes {s : State} {name : SpaceName} {a : Nat} {bs : List Byte} :
    P s → s.cursor = none → a + bs.length ≤ spaceSize s.cfg name → P (s.hostWriteBytes name a bs)
  hardReset {s : State} : P s → P s.hardReset
  illegalCommand {s : State} : P s → s.cursor = none → P s.illegalCommand
  exec {i : Instr} {s t : State} : P s → s.cursor = none → ExecResult s i t → P t
  start {s t : State} : P s → s.cursor = none → StartResult s t → P t
  engine {s t : State} {c : Cursor} : P s → s.cursor = some c → EngineResult s c t → P t

theorem KeptByMoves.engineStep {P : State → Prop} (kept : KeptByMoves P) {s t : State} (hs : P s)
    (h : engineStep s = .next t) : P t := by
  cases hc : s.cursor with
  | none =>
    rcases engineStep_next h with ⟨-, rfl⟩ | ⟨c, hc', -⟩ | ⟨c, hc', -⟩ | ⟨c, hc', -⟩
    · exact hs
    all_goals rw [hc] at hc'; cases hc'
  | some c => exact kept.engine hs hc (engineStep_result hc h)

theorem KeptByMoves.writeCmd {P : State → Prop} (kept : KeptByMoves P) {s t : State} {w : Word} (hs : P s)
    (h : writeCmd w s = .next t) : P t := by
  rcases writeCmd_next h with ⟨i, -, hexec | hstart⟩ | ⟨e, -, hbusy, rfl⟩
  · obtain ⟨hidle, hres⟩ := exec_result hexec
    exact kept.exec hs hidle hres
  · obtain ⟨hidle, hres⟩ := start_result hstart
    exact kept.start hs hidle hres
  · exact kept.illegalCommand hs (s.busy_false_iff.1 hbusy)

/-- A property kept by every move is kept by every step. -/
theorem KeptByMoves.step {P : State → Prop} (kept : KeptByMoves P) {s t : State} (hs : P s)
    (h : step s = .next t) : P t := by
  have hrest : ∀ rest, P { s with script := rest } := fun rest => kept.hostSide rest s.replies s.fresh hs
  rcases step_next h with hengine | ⟨rest, -, -, hengine⟩ | ⟨m, rest, r, k, -, rfl⟩ |
    ⟨rest, -, -, rfl⟩ | ⟨-, ht⟩ | ⟨rest, -, rfl⟩ | ⟨reg, v, rest, hbusy, -, -, hwrite⟩ | ⟨name, a, bs, rest, hbusy, -, hrange, rfl⟩ |
    ⟨w, rest, -, -, hcmd⟩
  · exact kept.engineStep hs hengine
  · exact kept.engineStep (hrest rest) hengine
  · exact kept.hostSide (s := s) rest (s.replies ++ [r]) (s.fresh + k) hs
  · exact hrest rest
  · exact ht ▸ hs
  · exact kept.hardReset (hrest rest)
  · exact kept.hostWrite (hrest rest) (s.busy_false_iff.1 hbusy) hwrite
  · exact kept.hostWriteBytes (hrest rest) (s.busy_false_iff.1 hbusy) hrange
  · exact kept.writeCmd (hrest rest) hcmd

end Sys2Proof.Machine
end

section
/-! PROOFS. Where the cursor of PACK and UNPACK stands (R42 to R50), bit by bit and through the cases of Transitions. -/

namespace Sys2Proof.Machine

/-! ## The place of the next bit -/

/-- The number of bits the engine uses of a channel at serialized bit `j`: one in the preamble, `d` in the body (R44). -/
def activeDepth (j d : Nat) : Nat := if j < 112 then 1 else d

/-- Up to the first bit of the body the depth does not matter to the place of a bit (R76). -/
theorem place_preamble {j : Nat} (d d' : Nat) (hj : j ≤ 112) : place j d = place j d' := by
  unfold place Config.preambleChannels
  split_ifs
  · rfl
  · obtain rfl : j = 112 := by omega
    simp

/-- The place of the bit after bit `j`: the next bit of the channel, or bit 0 of the next channel (R76). -/
theorem place_succ {j d : Nat} (hd : 112 ≤ j → 1 ≤ d) :
    place (j + 1) d = if (place j d).2 + 1 = activeDepth j d then ((place j d).1 + 1, 0)
      else ((place j d).1, (place j d).2 + 1) := by
  unfold place activeDepth Config.preambleChannels
  rcases Nat.lt_or_ge j 112 with hj | hj
  · rcases Nat.lt_or_ge (j + 1) 112 with hj' | hj'
    · simp [hj, hj']
    · obtain rfl : j = 111 := by omega
      simp
  · have hd := hd hj
    have hdm := Nat.div_add_mod (j - 112) d
    have hmod := Nat.mod_lt (j - 112) hd
    simp only [if_neg (show ¬ j < 112 by omega), if_neg (show ¬ j + 1 < 112 by omega),
      show j + 1 - 112 = j - 112 + 1 by omega]
    split_ifs with hlast
    · obtain ⟨hq, hr⟩ := (Nat.div_mod_unique (a := j - 112 + 1) (c := 0) (d := (j - 112) / d + 1) hd).2
        ⟨by rw [Nat.mul_add]; omega, hd⟩
      rw [hq, hr, Nat.add_assoc]
    · obtain ⟨hq, hr⟩ := (Nat.div_mod_unique (a := j - 112 + 1) (c := (j - 112) % d + 1) (d := (j - 112) / d) hd).2
        ⟨by omega, by omega⟩
      rw [hq, hr]

/-- R50's place of the cursor in terms of R76's `Place`. -/
theorem Cursor.placed_iff (c : Cursor) (d : Nat) :
    c.Placed d ↔ c.ad = activeDepth c.bitsDone d ∧ (c.ci, c.bp) = place c.bitsDone d := by
  unfold Cursor.Placed activeDepth place Config.preambleChannels
  split_ifs <;> simp

/-- `c'` stands one serialized bit behind `c`: the counters of R43, R45 and R46 moved on as R135 and R157 say. -/
structure Cursor.Advances (c c' : Cursor) : Prop where
  bi : c'.bi = if c.bi + 1 = 8 then 0 else c.bi + 1
  bc : c'.bc = if c.bi + 1 = 8 then c.bc + 1 else c.bc
  bp : c'.bp = if c.bp + 1 = c.ad then 0 else c.bp + 1
  ci : c'.ci = if c.bp + 1 = c.ad then c.ci + 1 else c.ci

theorem Cursor.packNext_advances (c : Cursor) : c.Advances c.packNext := ⟨rfl, rfl, rfl, rfl⟩

theorem Cursor.readNext_advances (c : Cursor) (v : Bool) : c.Advances (c.readNext v) := ⟨rfl, rfl, rfl, rfl⟩

theorem Cursor.Advances.bi_lt {c c' : Cursor} (h : c.Advances c') (hbi : c.bi < 8) : c'.bi < 8 := by
  rw [h.bi]; split_ifs <;> omega

theorem Cursor.Advances.bitsDone {c c' : Cursor} (h : c.Advances c') : c'.bitsDone = c.bitsDone + 1 := by
  unfold Cursor.bitsDone
  rw [h.bi, h.bc]; split_ifs <;> omega

theorem Cursor.Advances.ci_le {c c' : Cursor} {len : Nat} (h : c.Advances c') (hle : c.ci ≤ len) (hne : c.ci ≠ len) :
    c'.ci ≤ len := by
  rw [h.ci]; split_ifs <;> omega

theorem Cursor.Advances.place {c c' : Cursor} {d : Nat} (h : c.Advances c') (hc : c.Placed d)
    (hd : 112 ≤ c.bitsDone → 1 ≤ d) : (c'.ci, c'.bp) = place c'.bitsDone d := by
  obtain ⟨had, hplace⟩ := (c.placed_iff d).1 hc
  rw [h.bitsDone, place_succ hd, ← hplace, ← had, h.ci, h.bp]
  split_ifs <;> rfl

/-- The active depth by the count of whole bytes: the preamble is fourteen of them (R9). -/
theorem Cursor.activeDepth_bitsDone {c : Cursor} (hbi : c.bi < 8) (d : Nat) :
    activeDepth c.bitsDone d = if c.bc < 14 then 1 else d := by
  unfold activeDepth Cursor.bitsDone
  split_ifs <;> omega

/-- In the body a channel takes at most eight bits, so the cursor is as far in the stream as in the sequence (R50, R76). -/
theorem Cursor.InStream.bc_le {c : Cursor} {cfg : Config.Params} {numpix : Word} (h : c.InStream cfg numpix)
    (hd : legalDepth c.ld.toNat) (hbc : 14 ≤ c.bc) : c.bc + 98 ≤ c.ci := by
  obtain ⟨-, -, -, hplaced⟩ := h
  unfold Cursor.Placed Cursor.bitsDone at hplaced
  rw [if_neg (by omega)] at hplaced
  have hdiv : c.bc - 14 ≤ (8 * c.bc + c.bi - 112) / c.ld.toNat := by
    rw [Nat.le_div_iff_mul_le hd.1]
    calc (c.bc - 14) * c.ld.toNat ≤ (c.bc - 14) * 8 := Nat.mul_le_mul_left _ hd.2
      _ ≤ 8 * c.bc + c.bi - 112 := by omega
  omega

/-! ## PACK -/

theorem Cursor.create_inStream {cfg : Config.Params} {numpix : Word} (ph : Phase) (d n p : Word)
    (hnp : numpix.toNat ≤ cfg.numpixMax) : (Cursor.create ph d n p).InStream cfg numpix :=
  ⟨hnp, Nat.zero_le _, Nat.zero_lt_succ 7, by simp [Cursor.Placed, Cursor.bitsDone, Cursor.create]⟩

theorem Cursor.packNext_packOk {c : Cursor} (h : c.PackOk) (hbc : c.bc ≠ totalBytes c.ln.toNat c.lp.toNat) :
    c.packNext.PackOk := by
  obtain ⟨hd, hn, hcount⟩ := h
  refine ⟨hd, hn, ?_⟩
  rw [c.packNext_advances.bc, c.packNext_advances.bi]
  change _ < totalBytes c.ln.toNat c.lp.toNat ∨ (_ = totalBytes c.ln.toNat c.lp.toNat ∧ _)
  split_ifs <;> omega

/-- The phase switch of R136. -/
theorem Cursor.packNext_phase (c : Cursor) :
    (c.packNext.ph, c.packNext.ad) =
      if c.ph = .packPreamble ∧ c.packNext.bc = 14 then (.packBody, c.ld.toNat) else (c.ph, c.ad) := by
  simp only [Cursor.packNext, Config.preambleBytes]
  split_ifs <;> rfl

theorem Cursor.PhaseOk.packOk {c : Cursor} (h : c.PhaseOk) (hph : c.ph = .packPreamble ∨ c.ph = .packBody) :
    c.PackOk ∧ (c.ph = .packPreamble ↔ c.bc < 14) := by
  unfold Cursor.PhaseOk at h
  rcases hph with hph | hph <;> rw [hph] at h ⊢ <;> obtain ⟨hok, hbc⟩ := h
  · exact ⟨hok, by simp [hbc]⟩
  · exact ⟨hok, by simp [hbc]⟩

/-- The phase and the active depth of PACK's next cursor, before and after the switch (R136). -/
theorem Cursor.packNext_phaseOk {c : Cursor} (hph : c.ph = .packPreamble ∨ c.ph = .packBody) (h : c.PhaseOk)
    (hbi : c.bi < 8) (had : c.ad = activeDepth c.bitsDone c.ld.toNat)
    (hbc : c.bc ≠ totalBytes c.ln.toNat c.lp.toNat) :
    c.packNext.PhaseOk ∧ c.packNext.ph.ofUnpack = false ∧ c.packNext.ph ≠ .capCompute ∧
      c.packNext.ad = activeDepth c.packNext.bitsDone c.ld.toNat := by
  obtain ⟨hok, hpre⟩ := h.packOk hph
  have hok' := Cursor.packNext_packOk hok hbc
  have hadv := c.packNext_advances
  have hbi' := hadv.bi_lt hbi
  have hbc' := hadv.bc
  have hswitch := c.packNext_phase
  by_cases hbody : c.ph = .packPreamble ∧ c.packNext.bc = 14
  · rw [if_pos hbody, Prod.mk.injEq] at hswitch
    simp [Cursor.PhaseOk, hswitch, hok', hbody.2, Phase.ofUnpack, Cursor.bitsDone, activeDepth]
  · rw [if_neg hbody, Prod.mk.injEq] at hswitch
    have hside : c.packNext.ph = .packPreamble ↔ c.packNext.bc < 14 := by
      rw [hswitch.1, hpre]
      have : c.bc < 14 → c.packNext.bc ≠ 14 := fun hlt e => hbody ⟨hpre.2 hlt, e⟩
      split_ifs at hbc' <;> omega
    have hsame : c.packNext.bc < 14 ↔ c.bc < 14 := by rw [← hside, hswitch.1, hpre]
    rw [Cursor.activeDepth_bitsDone hbi']
    rw [Cursor.activeDepth_bitsDone hbi] at had
    rcases hph with hph | hph
    · have hlt := hpre.1 hph
      simp [Cursor.PhaseOk, hswitch, hph, hok', had, hsame, hlt, Phase.ofUnpack]
    · have hge : 14 ≤ c.packNext.bc := by
        rw [← Nat.not_lt, ← hside, hswitch.1, hph]; decide
      simp [Cursor.PhaseOk, hswitch, hph, hok', had, ← hsame, hge, Phase.ofUnpack]

/-- A step of PACK that goes on keeps the cursor where R50 puts it (R135, R136). -/
theorem Cursor.packNext_sound {c : Cursor} {cfg : Config.Params} {numpix : Word}
    (hph : c.ph = .packPreamble ∨ c.ph = .packBody) (hphase : c.PhaseOk) (hin : c.InStream cfg numpix)
    (hbc : c.bc ≠ totalBytes c.ln.toNat c.lp.toNat) (hci : c.ci ≠ streamLen numpix) :
    c.packNext.PhaseOk ∧ c.packNext.InStream cfg numpix ∧ c.packNext.ph.ofUnpack = false := by
  obtain ⟨hnp, hle, hbi, hplaced⟩ := hin
  have hadv := c.packNext_advances
  obtain ⟨hphase', hpack, -, had'⟩ :=
    Cursor.packNext_phaseOk hph hphase hbi ((c.placed_iff _).1 hplaced).1 hbc
  have hplace' := hadv.place hplaced fun _ => (hphase.packOk hph).1.1.1
  exact ⟨hphase', ⟨hnp, hadv.ci_le hle hci, hadv.bi_lt hbi, (c.packNext.placed_iff _).2 ⟨had', hplace'⟩⟩, hpack⟩

/-! ## UNPACK: a bit read -/

theorem Cursor.storeByte_ph (c : Cursor) (k : Nat) (v : Byte) : (c.storeByte k v).ph = c.ph := by
  unfold Cursor.storeByte; split_ifs <;> rfl

theorem Cursor.storeByte_ad (c : Cursor) (k : Nat) (v : Byte) : (c.storeByte k v).ad = c.ad := by
  unfold Cursor.storeByte; split_ifs <;> rfl

/-- Byte 13 alone goes to `LD` (R154). -/
theorem Cursor.storeByte_ld (c : Cursor) (k : Nat) (v : Byte) :
    (c.storeByte k v).ld = if k = 13 then v.setWidth 32 else c.ld := by
  grind [Cursor.storeByte]

/-- Byte 14 alone goes to `LN` (R154). -/
theorem Cursor.storeByte_ln (c : Cursor) (k : Nat) (v : Byte) :
    (c.storeByte k v).ln = if k = 14 then v.setWidth 32 else c.ln := by
  grind [Cursor.storeByte]

/-- Outside the four bytes of the payload length `LP` is kept (R154). -/
theorem Cursor.storeByte_lp {c : Cursor} {k : Nat} (v : Byte) (hk : k ≤ 14 + c.ln.toNat ∨ 19 + c.ln.toNat ≤ k) :
    (c.storeByte k v).lp = c.lp := by
  grind [Cursor.storeByte]

/-- A bit that does not complete its byte moves no latch (R157). -/
theorem Cursor.readNext_of_bit {c : Cursor} (v : Bool) (h : c.bi + 1 ≠ 8) :
    c.readNext v = { c with
      sh := setBit c.sh c.bi v, bi := c.bi + 1
      bp := if c.bp + 1 = c.ad then 0 else c.bp + 1, ci := if c.bp + 1 = c.ad then c.ci + 1 else c.ci } := by
  simp only [Cursor.readNext, if_neg h]

/-- A bit that completes its byte stores the byte (R157). -/
theorem Cursor.readNext_of_byte {c : Cursor} (v : Bool) (h : c.bi + 1 = 8) :
    c.readNext v = { c.storeByte c.bc (setBit c.sh c.bi v) with
      sh := 0, bi := 0, bc := c.bc + 1
      bp := if c.bp + 1 = c.ad then 0 else c.bp + 1, ci := if c.bp + 1 = c.ad then c.ci + 1 else c.ci } := by
  simp only [Cursor.readNext, if_pos h]

theorem Cursor.readNext_ph (c : Cursor) (v : Bool) : (c.readNext v).ph = c.ph := by
  by_cases hbyte : c.bi + 1 = 8
  · simp [c.readNext_of_byte v hbyte, Cursor.storeByte_ph]
  · simp [c.readNext_of_bit v hbyte]

theorem Cursor.readNext_ad (c : Cursor) (v : Bool) : (c.readNext v).ad = c.ad := by
  by_cases hbyte : c.bi + 1 = 8
  · simp [c.readNext_of_byte v hbyte, Cursor.storeByte_ad]
  · simp [c.readNext_of_bit v hbyte]

theorem Cursor.readNext_ld (c : Cursor) (v : Bool) :
    (c.readNext v).ld = if c.bi + 1 = 8 ∧ c.bc = 13 then (setBit c.sh c.bi v).setWidth 32 else c.ld := by
  by_cases hbyte : c.bi + 1 = 8
  · simp [c.readNext_of_byte v hbyte, Cursor.storeByte_ld, hbyte]
  · simp [c.readNext_of_bit v hbyte, hbyte]

theorem Cursor.readNext_ln (c : Cursor) (v : Bool) :
    (c.readNext v).ln = if c.bi + 1 = 8 ∧ c.bc = 14 then (setBit c.sh c.bi v).setWidth 32 else c.ln := by
  by_cases hbyte : c.bi + 1 = 8
  · simp [c.readNext_of_byte v hbyte, Cursor.storeByte_ln, hbyte]
  · simp [c.readNext_of_bit v hbyte, hbyte]

theorem Cursor.readNext_lp {c : Cursor} (v : Bool) (h : c.bc ≤ 14 + c.ln.toNat ∨ 19 + c.ln.toNat ≤ c.bc) :
    (c.readNext v).lp = c.lp := by
  by_cases hbyte : c.bi + 1 = 8
  · simp [c.readNext_of_byte v hbyte, Cursor.storeByte_lp _ h]
  · simp [c.readNext_of_bit v hbyte]

theorem Cursor.readNext_mm {c : Cursor} (v : Bool) (h : c.bi + 1 ≠ 8) : (c.readNext v).mm = c.mm := by
  rw [c.readNext_of_bit v h]

/-- `LN` is one byte of the stream (R154). -/
theorem setWidth_toNat_le (v : Byte) : (v.setWidth 32).toNat ≤ 255 := by
  have := v.isLt
  simp only [BitVec.toNat_setWidth]
  omega

/-! ## UNPACK: Transitions -/

/-- The active depth that goes with a phase of UNPACK (R44, R162). -/
def Cursor.phaseDepth (c : Cursor) : Nat := if c.ph.rank ≤ 2 then 1 else c.ld.toNat

/-- What holds of UNPACK's cursor between a `ReadStep` and the `Transitions` after it: the count of bytes of each phase as in
`Cursor.PhaseOk`, its boundary included. -/
def Cursor.ReadOk (c : Cursor) : Prop :=
  c.ad = c.phaseDepth ∧
  match c.ph with
  | .capCompute => False
  | .packPreamble => False
  | .packBody => False
  | .readingMagic => c.bc ≤ 13 ∧ c.ln = 0 ∧ c.lp = 0
  | .readingBitDepth => (c.bc = 13 ∧ c.mm = false ∨ c.bc = 14) ∧ c.ln = 0 ∧ c.lp = 0
  | .readingFilenameLength =>
    legalDepth c.ld.toNat ∧ c.ln.toNat ≤ 255 ∧ (c.bc = 14 ∧ c.ln = 0 ∨ c.bc = 15) ∧ c.lp = 0
  | .readingFilename => legalDepth c.ld.toNat ∧ c.ln.toNat ≤ 255 ∧ c.lp = 0 ∧ 15 ≤ c.bc ∧ c.bc ≤ 15 + c.ln.toNat
  | .readingPayloadLength =>
    legalDepth c.ld.toNat ∧ c.ln.toNat ≤ 255 ∧ 15 + c.ln.toNat ≤ c.bc ∧ c.bc ≤ 19 + c.ln.toNat
  | .readingPayload =>
    legalDepth c.ld.toNat ∧ c.ln.toNat ≤ 255 ∧ 19 + c.ln.toNat ≤ c.bc ∧ c.bc ≤ 19 + c.ln.toNat + c.lp.toNat

/-- Up to and with the reading of the depth byte, the count of whole bytes is that of the preamble (R152). -/
theorem Cursor.PhaseOk.rank_le_iff {c : Cursor} (hph : c.ph.ofUnpack = true) (h : c.PhaseOk) :
    c.ph.rank ≤ 2 ↔ c.bc < 14 := by
  unfold Cursor.PhaseOk at h
  cases hp : c.ph <;> simp only [hp, Phase.rank, Phase.ofUnpack, Bool.false_eq_true] at h hph ⊢ <;> omega

/-- A bit read leaves the cursor where the cases of Transitions find it (R154, R157). -/
theorem Cursor.readNext_readOk {c : Cursor} (v : Bool) (hph : c.ph.ofUnpack = true) (h : c.PhaseOk)
    (had : c.ad = c.phaseDepth) : (c.readNext v).ReadOk := by
  have hbc' := (c.readNext_advances v).bc
  have hld := c.readNext_ld v
  have hln := c.readNext_ln v
  have hbyte := setWidth_toNat_le (setBit c.sh c.bi v)
  unfold Cursor.PhaseOk at h
  unfold Cursor.phaseDepth at had
  unfold Cursor.ReadOk Cursor.phaseDepth
  rw [c.readNext_ph, c.readNext_ad]
  cases hp : c.ph <;> simp only [hp, Phase.rank, Phase.ofUnpack, Bool.false_eq_true] at h hph had ⊢
  case readingMagic =>
    obtain ⟨hbc, hln0, hlp0⟩ := h
    rw [if_neg (by omega)] at hln
    refine ⟨had, ?_, hln.trans hln0, (c.readNext_lp v (.inl (by omega))).trans hlp0⟩
    split_ifs at hbc' <;> omega
  case readingBitDepth =>
    obtain ⟨hbc, hmm, hln0, hlp0⟩ := h
    rw [if_neg (by omega)] at hln
    refine ⟨had, ?_, hln.trans hln0, (c.readNext_lp v (.inl (by omega))).trans hlp0⟩
    by_cases hlast : c.bi + 1 = 8
    · exact .inr (by rw [hbc', if_pos hlast, hbc])
    · exact .inl ⟨by rw [hbc', if_neg hlast, hbc], (c.readNext_mm v hlast).trans hmm⟩
  case readingFilenameLength =>
    obtain ⟨hbc, hd, hln0, hlp0⟩ := h
    rw [if_neg (by omega)] at hld
    rw [hld]
    refine ⟨had, hd, ?_, ?_, (c.readNext_lp v (.inl (by omega))).trans hlp0⟩
    · rw [hln]
      split_ifs
      · exact hbyte
      · simp [hln0]
    · by_cases hlast : c.bi + 1 = 8
      · exact .inr (by rw [hbc', if_pos hlast, hbc])
      · exact .inl ⟨by rw [hbc', if_neg hlast, hbc], by rw [hln, if_neg (by omega), hln0]⟩
  case readingFilename =>
    obtain ⟨hd, hn, hlp0, hlo, hhi⟩ := h
    rw [if_neg (by omega)] at hld hln
    rw [hld, hln]
    refine ⟨had, hd, hn, (c.readNext_lp v (.inl (by omega))).trans hlp0, ?_⟩
    split_ifs at hbc' <;> omega
  case readingPayloadLength =>
    obtain ⟨hd, hn, hlo, hhi⟩ := h
    rw [if_neg (by omega)] at hld hln
    rw [hld, hln]
    refine ⟨had, hd, hn, ?_⟩
    split_ifs at hbc' <;> omega
  case readingPayload =>
    obtain ⟨hd, hn, hlo, hhi⟩ := h
    rw [if_neg (by omega)] at hld hln
    rw [hld, hln, c.readNext_lp v (.inr (by omega))]
    refine ⟨had, hd, hn, ?_⟩
    split_ifs at hbc' <;> omega

/-- The five cases of Transitions after which the command goes on (R161 to R165). -/
theorem Cursor.transition_moved {c c' : Cursor} (h : c.transition = .moved c') :
    (c.ph = .readingMagic ∧ c.bc = 13 ∧ c.mm = false ∧ c' = { c with ph := .readingBitDepth }) ∨
    (c.ph = .readingBitDepth ∧ c.bc = 14 ∧ legalDepth c.ld.toNat ∧
      c' = { c with ad := c.ld.toNat, ph := .readingFilenameLength }) ∨
    (c.ph = .readingFilenameLength ∧ c.bc = 15 ∧ c' = { c with ph := .readingFilename }) ∨
    (c.ph = .readingFilename ∧ c.bc = 15 + c.ln.toNat ∧ c' = { c with ph := .readingPayloadLength }) ∨
    (c.ph = .readingPayloadLength ∧ c.bc = 19 + c.ln.toNat ∧ c' = { c with ph := .readingPayload }) := by
  unfold Cursor.transition at h
  cases hp : c.ph <;> simp only [hp] at h <;> (repeat' split at h) <;> cases h <;> simp_all [legalDepth]
  omega

/-- The failing cases of Transitions (R161, R162). -/
theorem Cursor.transition_failed {c : Cursor} {e : ErrKind} (h : c.transition = .failed e) :
    e = .magicMismatch ∨ e = .invalidBitDepth := by
  unfold Cursor.transition at h
  cases hp : c.ph <;> simp only [hp] at h <;> (repeat' split at h) <;> cases h <;> simp

/-- The last case of Transitions (R166). -/
theorem Cursor.transition_finished {c : Cursor} (h : c.transition = .finished) :
    c.ph = .readingPayload ∧ c.bc = 19 + c.ln.toNat + c.lp.toNat := by
  unfold Cursor.transition at h
  cases hp : c.ph <;> simp only [hp] at h <;> (repeat' split at h) <;> cases h
  exact ⟨rfl, ‹_›⟩

/-- A case of Transitions that moves on changes the phase and the active depth only (R160). -/
theorem Cursor.transition_moved_eq {c c' : Cursor} (h : c.transition = .moved c') :
    c' = { c with ph := c'.ph, ad := c'.ad } := by
  rcases Cursor.transition_moved h with ⟨-, -, -, rfl⟩ | ⟨-, -, -, rfl⟩ | ⟨-, -, rfl⟩ | ⟨-, -, rfl⟩ | ⟨-, -, rfl⟩ <;>
    rfl

/-- A case of Transitions that moves on leaves the cursor where the next case finds it (R160). -/
theorem Cursor.ReadOk.moved {c c' : Cursor} (h : c.ReadOk) (hm : c.transition = .moved c') : c'.ReadOk := by
  unfold Cursor.ReadOk Cursor.phaseDepth at h ⊢
  rcases Cursor.transition_moved hm with ⟨hp, hbc, hmm, rfl⟩ | ⟨hp, hbc, hd, rfl⟩ | ⟨hp, hbc, rfl⟩ |
    ⟨hp, hbc, rfl⟩ | ⟨hp, hbc, rfl⟩ <;> simp only [hp, Phase.rank] at h ⊢ <;> obtain ⟨had, h⟩ := h
  · exact ⟨had, .inl ⟨hbc, hmm⟩, h.2⟩
  · obtain ⟨-, hln, hlp⟩ := h
    exact ⟨rfl, hd, by simp [hln], .inl ⟨hbc, hln⟩, hlp⟩
  · obtain ⟨hd, hn, -, hlp⟩ := h
    exact ⟨had, hd, hn, hlp, by omega, by omega⟩
  · obtain ⟨hd, hn, -, -⟩ := h
    exact ⟨had, hd, hn, by omega, by omega⟩
  · obtain ⟨hd, hn, -, -⟩ := h
    exact ⟨had, hd, hn, by omega, by omega⟩

/-- Where no case of Transitions applies, the byte counts are those of the phase (R152). -/
theorem Cursor.ReadOk.stay {c : Cursor} (h : c.ReadOk) (hs : c.transition = .stay) :
    c.PhaseOk ∧ c.ph.ofUnpack = true := by
  unfold Cursor.ReadOk at h
  unfold Cursor.transition at hs
  unfold Cursor.PhaseOk
  obtain ⟨-, h⟩ := h
  cases hp : c.ph <;> simp only [hp, Phase.ofUnpack, and_true] at h hs ⊢
  case readingMagic =>
    split_ifs at hs with hbc
    exact ⟨by omega, h.2⟩
  case readingBitDepth =>
    split_ifs at hs with hbc
    obtain ⟨⟨h13, hmm⟩ | h14, hln, hlp⟩ := h
    · exact ⟨h13, hmm, hln, hlp⟩
    · exact absurd h14 hbc
  case readingFilenameLength =>
    split_ifs at hs with hbc
    obtain ⟨hd, -, ⟨h14, hln⟩ | h15, hlp⟩ := h
    · exact ⟨h14, hd, hln, hlp⟩
    · exact absurd h15 hbc
  case readingFilename =>
    split_ifs at hs with hbc
    obtain ⟨hd, hn, hlp, hlo, hhi⟩ := h
    exact ⟨hd, hn, hlp, hlo, by omega⟩
  case readingPayloadLength | readingPayload =>
    split_ifs at hs with hbc
    obtain ⟨hd, hn, hlo, hhi⟩ := h
    exact ⟨hd, hn, hlo, by omega⟩

/-- `Transitions` keeps what each of its cases keeps, and ends because no case applies, with an error, or with the whole
payload read (R160, R166). Seven passes are enough from any phase. -/
theorem transitions_end {P : Cursor → Prop} (hmoved : ∀ c c', P c → c.transition = .moved c' → P c') (s : State)
    {fuel : Nat} {c : Cursor} (hc : P c) (hfuel : 6 < fuel + c.ph.rank) :
    (∃ c', P c' ∧ c'.transition = .stay ∧ transitions fuel s c = { s with cursor := some c' }) ∨
    (∃ e, (e = .magicMismatch ∨ e = .invalidBitDepth) ∧ transitions fuel s c = s.dropOutput.fail e) ∨
    (∃ c', P c' ∧ c'.transition = .finished ∧ transitions fuel s c = s.finishUnpack c') := by
  induction fuel generalizing c with
  | zero => cases hp : c.ph <;> simp [hp, Phase.rank] at hfuel
  | succ fuel ih =>
    simp only [transitions]
    cases ht : c.transition with
    | moved c' =>
      have hrank := (Cursor.transition_moved_rank ht).1
      exact ih (hmoved c c' hc ht) (by omega)
    | failed e => exact .inr (.inl ⟨e, Cursor.transition_failed ht, rfl⟩)
    | finished => exact .inr (.inr ⟨c, hc, ht, rfl⟩)
    | stay => exact .inl ⟨c, hc, ht, rfl⟩

end Sys2Proof.Machine
end

section
/-! PROOFS. The flags (R34, R35, R202) and the cursor (R50) after every step. -/

namespace Sys2Proof.Machine

/-! ## The cursor -/

/-- R44 and R162: between two steps the active depth of UNPACK's phase is that of the bits already read. -/
theorem Cursor.PhaseOk.phaseDepth_eq {c : Cursor} (hph : c.ph.ofUnpack = true) (h : c.PhaseOk) (hbi : c.bi < 8) :
    c.phaseDepth = activeDepth c.bitsDone c.ld.toNat := by
  rw [Cursor.activeDepth_bitsDone hbi, Cursor.phaseDepth]
  simp only [h.rank_le_iff hph]

/-- UNPACK comes to the body with a legal depth only (R132, R162). -/
theorem Cursor.PhaseOk.legalDepth_of_body {c : Cursor} (hph : c.ph.ofUnpack = true) (h : c.PhaseOk)
    (hbc : 14 ≤ c.bc) : legalDepth c.ld.toNat := by
  unfold Cursor.PhaseOk at h
  cases hp : c.ph <;> simp only [hp, Phase.ofUnpack, Bool.false_eq_true] at h hph <;> omega

/-- After a bit read the next bit stands where R50 says, also where the bit completed the depth byte. -/
theorem Cursor.readNext_place {c : Cursor} (v : Bool) (hph : c.ph.ofUnpack = true) (h : c.PhaseOk)
    (hbi : c.bi < 8) (hplaced : c.Placed c.ld.toNat) :
    ((c.readNext v).ci, (c.readNext v).bp) = place (c.readNext v).bitsDone (c.readNext v).ld.toNat := by
  have hadv := c.readNext_advances v
  have hbody : 112 ≤ c.bitsDone → 14 ≤ c.bc := fun hj => by unfold Cursor.bitsDone at hj; omega
  rw [hadv.place hplaced fun hj => (h.legalDepth_of_body hph (hbody hj)).1, c.readNext_ld]
  split_ifs with hdepth
  · exact place_preamble _ _ (by rw [hadv.bitsDone]; unfold Cursor.bitsDone; omega)
  · rfl

/-- One turn of UNPACK that finds a bit: it goes on at a cursor where R50 puts it, fails, or ends with all `T` bytes read. -/
theorem transitions_readNext {c : Cursor} {cfg : Config.Params} {numpix : Word} (s : State) (v : Bool)
    (hph : c.ph.ofUnpack = true) (h : c.PhaseOk) (hin : c.InStream cfg numpix) (hci : c.ci ≠ streamLen numpix) :
    (∃ c', (c'.PhaseOk ∧ c'.InStream cfg numpix ∧ c'.ph.ofUnpack = true) ∧
      c'.bc = (c.readNext v).bc ∧ c'.ln = (c.readNext v).ln ∧
      transitions 7 s (c.readNext v) = { s with cursor := some c' }) ∨
    (∃ e, (e = .magicMismatch ∨ e = .invalidBitDepth) ∧ transitions 7 s (c.readNext v) = s.dropOutput.fail e) ∨
    (∃ c', (legalDepth c'.ld.toNat ∧ c'.ln.toNat ≤ 255 ∧ c'.bc = 19 + c'.ln.toNat + c'.lp.toNat) ∧
      c'.bc = (c.readNext v).bc ∧ c'.ln = (c.readNext v).ln ∧
      transitions 7 s (c.readNext v) = s.finishUnpack c') := by
  obtain ⟨hnp, hle, hbi, hplaced⟩ := hin
  have hadv := c.readNext_advances v
  have hread := Cursor.readNext_readOk v hph h
    (by rw [h.phaseDepth_eq hph hbi]; exact ((c.placed_iff _).1 hplaced).1)
  have hplace := Cursor.readNext_place v hph h hbi hplaced
  have hend := transitions_end (P := fun c' => c'.ReadOk ∧ c' = { c.readNext v with ph := c'.ph, ad := c'.ad })
    (fun a b ⟨ha, hsame⟩ hm => ⟨ha.moved hm, by
      have := Cursor.transition_moved_eq hm
      rw [hsame] at this
      exact this⟩) s (fuel := 7) ⟨hread, rfl⟩ (by omega)
  rcases hend with ⟨c', ⟨hok, hsame⟩, hstay, heq⟩ | hfail | ⟨c', ⟨hok, hsame⟩, hfin, heq⟩
  · refine .inl ⟨c', ?_, by rw [hsame], by rw [hsame], heq⟩
    obtain ⟨hphase', hph'⟩ := hok.stay hstay
    have hbi' : c'.bi < 8 := by rw [hsame]; exact hadv.bi_lt hbi
    have hci' : c'.ci ≤ streamLen numpix := by rw [hsame]; exact hadv.ci_le hle hci
    have hplace' : (c'.ci, c'.bp) = place c'.bitsDone c'.ld.toNat := by rw [hsame]; exact hplace
    have had' := hok.1.trans (hphase'.phaseDepth_eq hph' hbi')
    exact ⟨hphase', ⟨hnp, hci', hbi', (c'.placed_iff _).2 ⟨had', hplace'⟩⟩, hph'⟩
  · exact .inr (.inl hfail)
  · refine .inr (.inr ⟨c', ?_, by rw [hsame], by rw [hsame], heq⟩)
    obtain ⟨hp, hbc⟩ := Cursor.transition_finished hfin
    obtain ⟨-, hok⟩ := hok
    rw [hp] at hok
    exact ⟨hok.1, hok.2.1, hbc⟩

theorem State.cursorOk_of_idle {s : State} (h : s.cursor = none) : s.CursorOk := by
  simp [State.CursorOk, h]

theorem State.cursorOk_of_running {s : State} {c : Cursor} (hc : s.cursor = some c) :
    s.CursorOk ↔ c.PhaseOk ∧ (c.ph ≠ .capCompute → c.InStream s.cfg s.numpix.val) ∧
      (c.ph.ofUnpack = true → s.upvalid = false) := by
  simp [State.CursorOk, hc]

theorem Phase.ne_capCompute_of_unpack {p : Phase} (h : p.ofUnpack = true) : p ≠ .capCompute := by
  rintro rfl; cases h

theorem Phase.ne_capCompute_of_pack {p : Phase} (h : p = .packPreamble ∨ p = .packBody) : p ≠ .capCompute := by
  rcases h with rfl | rfl <;> decide

theorem cursorOk_engine {s t : State} {c : Cursor} (hs : s.CursorOk) (hc : s.cursor = some c)
    (h : EngineResult s c t) : t.CursorOk := by
  obtain ⟨hphase, hin, hup⟩ := (State.cursorOk_of_running hc).1 hs
  cases h with
  | capFailed | capDone | packDone | packOverflow | unpackExhausted => exact State.cursorOk_of_idle rfl
  | packWrote v hph hbc hci | packPassed hph hbc hci =>
    obtain ⟨hphase', hin', hpack⟩ :=
      Cursor.packNext_sound hph hphase (hin (Phase.ne_capCompute_of_pack hph)) hbc hci
    exact (State.cursorOk_of_running rfl).2 ⟨hphase', fun _ => hin', by simp [hpack]⟩
  | unpackTurn v hph hci =>
    rcases transitions_readNext (s.readNext c v) v hph hphase (hin (Phase.ne_capCompute_of_unpack hph)) hci with
      ⟨c', ⟨hphase', hin', -⟩, -, -, heq⟩ | ⟨e, -, heq⟩ | ⟨c', -, -, -, heq⟩
    · rw [heq, s.readNext_eq]
      exact (State.cursorOk_of_running rfl).2 ⟨hphase', fun _ => hin', fun _ => hup hph⟩
    · rw [heq]; exact State.cursorOk_of_idle rfl
    · rw [heq]; exact State.cursorOk_of_idle rfl

theorem Cursor.create_pack_phaseOk {d n : Word} (p : Word) (hd : legalDepth d.toNat) (hn : n.toNat ≤ 255) :
    (Cursor.create .packPreamble d n p).PhaseOk :=
  ⟨⟨hd, hn, .inl (by simp only [Cursor.create, totalBytes]; omega)⟩, Nat.zero_lt_succ 13⟩

theorem Cursor.create_unpack_phaseOk : (Cursor.create .readingMagic 0 0 0).PhaseOk := ⟨by decide, rfl, rfl⟩

theorem cursorOk_start {s t : State} (h : StartResult s t) : t.CursorOk := by
  cases h with
  | packFailed => exact State.cursorOk_of_idle rfl
  | cap =>
    rw [State.cursorOk_of_running rfl]
    exact ⟨trivial, fun h => absurd rfl h, nofun⟩
  | pack d n p hd hn hnp =>
    rw [State.cursorOk_of_running rfl]
    exact ⟨Cursor.create_pack_phaseOk p hd hn, fun _ => Cursor.create_inStream _ _ _ _ hnp, nofun⟩
  | unpack hnp =>
    rw [State.cursorOk_of_running rfl]
    exact ⟨Cursor.create_unpack_phaseOk, fun _ => Cursor.create_inStream _ _ _ _ hnp, fun _ => rfl⟩

/-- A command run whole leaves no cursor (R49, R187). -/
theorem ExecResult.idle {s t : State} {i : Instr} (h : ExecResult s i t) : t.cursor = none := by
  cases h <;> rfl

theorem hostWrite_cursor {s t : State} {v : Word} {reg : Nat} (h : s.hostWrite v reg = some t) :
    t.cursor = s.cursor := by
  rcases State.hostWrite_some h with rfl | rfl | rfl | rfl | rfl <;> rfl

theorem hostWriteBytes_cursor (s : State) (name : SpaceName) (a : Nat) (bs : List Byte) :
    (s.hostWriteBytes name a bs).cursor = s.cursor := by
  rw [s.hostWriteBytes_eq]

theorem cursorOk_kept : KeptByMoves State.CursorOk where
  hostSide _ _ _ hs := hs
  hostWrite _ hidle h := State.cursorOk_of_idle ((hostWrite_cursor h).trans hidle)
  hostWriteBytes _ hidle _ := State.cursorOk_of_idle ((hostWriteBytes_cursor ..).trans hidle)
  hardReset _ := State.cursorOk_of_idle rfl
  illegalCommand _ _ := State.cursorOk_of_idle rfl
  exec _ _ h := State.cursorOk_of_idle h.idle
  start _ _ h := cursorOk_start h
  engine hs hc h := cursorOk_engine hs hc h

/-- Settles O57: the cursor invariant is kept by every move, and so by every step. -/
theorem stepKeepsCursor : Obligations.StepKeepsCursor :=
  fun _ _ hs h => cursorOk_kept.step hs h

/-! ## The flags -/

theorem State.flagsOk_fail (s : State) {e : ErrKind} (he : e ≠ .ioFailure) : (s.fail e).FlagsOk :=
  ⟨fun _ => rfl, fun _ => rfl, rfl, fun h => he (Option.some.inj h)⟩

theorem State.flagsOk_complete (s : State) : s.complete.FlagsOk := by
  simp [State.FlagsOk, State.busy]

/-- While a command runs none of `DONE`, `ERR` and `ERRCODE` is set (R34, R184). -/
theorem State.flagsOk_of_running {s : State} (hrun : s.busy = true) :
    s.FlagsOk ↔ s.done = false ∧ s.err = false ∧ s.errcode = none := by
  unfold State.FlagsOk
  rw [hrun]
  constructor
  · rintro ⟨hdone, herr, hcode, -⟩
    have hd : s.done = false := by simpa using hdone
    have he : s.err = false := by simpa [hd] using herr
    exact ⟨hd, he, by simpa [he] using hcode⟩
  · rintro ⟨hd, he, hcode⟩
    simp [hd, he, hcode]

theorem flagsOk_engine {s t : State} {c : Cursor} (hs : s.FlagsOk) (hc : s.cursor = some c)
    (h : EngineResult s c t) : t.FlagsOk := by
  have hflags := (State.flagsOk_of_running (s.busy_iff.2 ⟨c, hc⟩)).1 hs
  cases h with
  | capFailed e _ he => exact State.flagsOk_fail _ he
  | capDone | packDone => exact State.flagsOk_complete _
  | packOverflow => exact State.flagsOk_fail _ (by decide)
  | packWrote | packPassed => exact (State.flagsOk_of_running rfl).2 hflags
  | unpackExhausted => exact State.flagsOk_fail _ (by decide)
  | unpackTurn v _ _ =>
    rcases transitions_cases 7 (s.readNext c v) (c.readNext v) with ⟨c', heq⟩ | ⟨e, he, heq⟩ | ⟨c', -, heq⟩
    · rw [heq, s.readNext_eq]
      exact (State.flagsOk_of_running rfl).2 hflags
    · rw [heq]
      exact State.flagsOk_fail _ (by rcases he with rfl | rfl <;> decide)
    · rw [heq]
      exact State.flagsOk_complete _

theorem flagsOk_exec {i : Instr} {s t : State} (h : ExecResult s i t) : t.FlagsOk := by
  cases h with
  | capFailed e he | packFailed e he | unpackFailed e he => exact State.flagsOk_fail _ he
  | packOverflow => exact State.flagsOk_fail _ (by decide)
  | capDone | packDone | unpackDone => exact State.flagsOk_complete _

theorem flagsOk_start {s t : State} (h : StartResult s t) : t.FlagsOk := by
  cases h with
  | packFailed e he => exact State.flagsOk_fail _ he
  | cap | pack | unpack => exact (State.flagsOk_of_running rfl).2 ⟨rfl, rfl, rfl⟩

theorem State.flagsOk_reset : State.reset.FlagsOk := ⟨nofun, nofun, rfl, nofun⟩

theorem flagsOk_kept : KeptByMoves State.FlagsOk where
  hostSide _ _ _ hs := hs
  hostWrite hs _ h := by rcases State.hostWrite_some h with rfl | rfl | rfl | rfl | rfl <;> exact hs
  hostWriteBytes hs _ _ := by rw [State.hostWriteBytes_eq]; exact hs
  hardReset _ := State.flagsOk_reset
  illegalCommand _ _ := State.flagsOk_fail _ (by decide)
  exec _ _ h := flagsOk_exec h
  start _ _ h := flagsOk_start h
  engine hs hc h := flagsOk_engine hs hc h

/-- Settles O56: the relations between the flags are kept by every move, and so by every step. -/
theorem stepKeepsFlags : Obligations.StepKeepsFlags :=
  fun _ _ hs h => flagsOk_kept.step hs h

end Sys2Proof.Machine
end

section
/-! PROOFS. What a command and a step of its engine leave unchanged (R36, R27 to R29, R51, R74, R142, R235). -/

namespace Sys2Proof.Machine

theorem ExecResult.sameInput {i : Instr} {s t : State} (h : ExecResult s i t) : s.SameInput t := by
  cases h <;> exact ⟨rfl, rfl, rfl, rfl, rfl, rfl, rfl, rfl, rfl, rfl⟩

theorem ExecResult.capres {i : Instr} {s t : State} (h : ExecResult s i t) (hi : i ≠ .cap) : t.capres = s.capres := by
  cases h with
  | capFailed | capDone => exact absurd rfl hi
  | packFailed | packOverflow | packDone | unpackFailed | unpackDone => rfl

theorem ExecResult.sameOutput {i : Instr} {s t : State} (h : ExecResult s i t) (hi : i ≠ .unpack) :
    s.SameOutput t := by
  cases h with
  | unpackFailed | unpackDone => exact absurd rfl hi
  | capFailed | capDone | packFailed | packOverflow | packDone => exact ⟨rfl, rfl, rfl, rfl, rfl, rfl⟩

theorem ExecResult.ch {i : Instr} {s t : State} (h : ExecResult s i t) (hi : i ≠ .pack) : t.ch = s.ch := by
  cases h with
  | packFailed | packOverflow | packDone => exact absurd rfl hi
  | capFailed | capDone | unpackFailed | unpackDone => rfl

/-- A turn of UNPACK writes the output record, the flags and the cursor only (R142, R150). -/
theorem transitions_frame (fuel : Nat) (s : State) (c c' : Cursor) (v : Bool) :
    s.SameInput (transitions fuel (s.readNext c v) c') ∧
      (transitions fuel (s.readNext c v) c').capres = s.capres ∧
      (transitions fuel (s.readNext c v) c').ch = s.ch := by
  rcases transitions_cases fuel (s.readNext c v) c' with ⟨_, heq⟩ | ⟨_, -, heq⟩ | ⟨_, -, heq⟩ <;>
    rw [heq, s.readNext_eq] <;> exact ⟨⟨rfl, rfl, rfl, rfl, rfl, rfl, rfl, rfl, rfl, rfl⟩, rfl, rfl⟩

theorem EngineResult.sameInput {s t : State} {c : Cursor} (h : EngineResult s c t) : s.SameInput t := by
  cases h with
  | unpackTurn v => exact (transitions_frame ..).1
  | capFailed | capDone | packDone | packOverflow | packWrote | packPassed | unpackExhausted =>
    exact ⟨rfl, rfl, rfl, rfl, rfl, rfl, rfl, rfl, rfl, rfl⟩

theorem EngineResult.capres {s t : State} {c : Cursor} (h : EngineResult s c t) (hph : c.ph ≠ .capCompute) :
    t.capres = s.capres := by
  cases h with
  | capFailed _ hcap | capDone _ hcap => exact absurd hcap hph
  | unpackTurn v => exact (transitions_frame ..).2.1
  | packDone | packOverflow | packWrote | packPassed | unpackExhausted => rfl

theorem EngineResult.sameOutput {s t : State} {c : Cursor} (h : EngineResult s c t) (hph : c.ph.ofUnpack = false) :
    s.SameOutput t := by
  cases h with
  | unpackExhausted hup | unpackTurn _ hup => rw [hph] at hup; cases hup
  | capFailed | capDone | packDone | packOverflow | packWrote | packPassed => exact ⟨rfl, rfl, rfl, rfl, rfl, rfl⟩

theorem EngineResult.ch {s t : State} {c : Cursor} (h : EngineResult s c t)
    (hph : ¬ (c.ph = .packPreamble ∨ c.ph = .packBody)) : t.ch = s.ch := by
  cases h with
  | packDone hpack | packOverflow hpack | packWrote _ hpack | packPassed hpack => exact absurd hpack hph
  | unpackTurn v => exact (transitions_frame ..).2.2
  | capFailed | capDone | unpackExhausted => rfl

theorem StartResult.sameInput {s t : State} (h : StartResult s t) : s.SameInput t := by
  cases h <;> exact ⟨rfl, rfl, rfl, rfl, rfl, rfl, rfl, rfl, rfl, rfl⟩

theorem StartResult.ch {s t : State} (h : StartResult s t) : t.ch = s.ch := by
  cases h <;> rfl

/-- Settles O32: the frame of each result of a command and of a step of its engine. -/
theorem whoWritesWhat : Obligations.WhoWritesWhat := by
  refine ⟨fun i s t hexec => ?_, fun s t c hc hstep => ?_⟩
  · obtain ⟨-, h⟩ := exec_result hexec
    exact ⟨h.sameInput, h.capres, h.sameOutput, h.ch⟩
  · have h := engineStep_result hc hstep
    exact ⟨h.sameInput, h.capres, h.sameOutput, fun hpre hbody => h.ch (not_or.2 ⟨hpre, hbody⟩)⟩

end Sys2Proof.Machine
end

section
/-! PROOFS. The byte spaces after every step: canonical, and nothing outside their cells (R60, R66). -/

namespace Sys2Proof.Machine

/-! ## One space -/

/-- A canonical space of `size` cells with nothing defined outside them (R60). -/
def Space.Good (sp : Space) (size : Nat) : Prop := sp.wf = true ∧ ∀ a, size ≤ a → sp.known.read a = 0#8

theorem Space.undef_good (size : Nat) : Space.undef.Good size := ⟨rfl, fun _ _ => rfl⟩

theorem Space.writeBit_good {sp : Space} {size a : Nat} (p : Nat) (v : Bool) (h : sp.Good size) (ha : a < size) :
    (sp.writeBit a p v).Good size :=
  ⟨Space.writeBit_wf a p v h.1, fun x hx => (Memory.read_write_other _ (by omega)).trans (h.2 x hx)⟩

theorem Space.writeBytes_good {sp : Space} {size a : Nat} {bs : List Byte} (h : sp.Good size)
    (ha : a + bs.length ≤ size) : (sp.writeBytes a bs).Good size :=
  ⟨Space.writeBytes_wf a bs h.1, fun x hx => (sp.writeBytes_known_other a x bs (by omega)).trans (h.2 x hx)⟩

theorem Space.writeByte_good {sp : Space} {size a : Nat} (v : Byte) (h : sp.Good size) (ha : a < size) :
    (sp.writeByte a v).Good size :=
  Space.writeBytes_good (bs := [v]) h (by simpa using ha)

theorem Space.spoil_good {sp : Space} {size : Nat} (len d : Nat) (h : sp.Good size) : (sp.spoil len d).Good size := by
  refine ⟨Space.spoil_wf len d h.1, fun a ha => ?_⟩
  have hknown := Memory.read_mask (survivors len d) (Space.wf_iff.1 h.1).2.1 a
  rw [h.2 a ha, BitVec.zero_and] at hknown
  exact hknown

/-- After `MemWrite` exactly the cell written is newly defined (R66). -/
theorem Space.writeByte_known {sp : Space} (a x : Nat) (v : Byte) (h : sp.wf = true) :
    (sp.writeByte a v).known.read x = if x = a then 0xFF#8 else sp.known.read x := by
  simp only [Space.writeByte]
  split_ifs with hx
  · rw [hx]
    exact Memory.read_write_same a _ (Space.wf_iff.1 h).2.1
  · exact Memory.read_write_other _ hx

/-- After consecutive writes exactly the cells written are newly defined (R183). -/
theorem Space.writeBytes_known {sp : Space} (a x : Nat) (bs : List Byte) (h : sp.wf = true) :
    (sp.writeBytes a bs).known.read x = if a ≤ x ∧ x < a + bs.length then 0xFF#8 else sp.known.read x := by
  induction bs generalizing sp a with
  | nil => rw [if_neg (by simp)]; rfl
  | cons b bs ih =>
    rw [Space.writeBytes, ih (a + 1) (Space.writeByte_wf a b h), Space.writeByte_known a x b h, List.length_cons]
    grind

/-! ## The channels PACK and UNPACK reach -/

/-- Every bit of the sequence stands in a channel that `Used` counts (R76, R77). -/
theorem place_lt_used {j d r : Nat} (hd : 1 ≤ d) (hj : j < 112 + 8 * r) : (place j d).1 < used d r := by
  unfold place used ceilDiv Config.preambleChannels
  split_ifs with hpre
  · exact Nat.lt_add_right _ hpre
  · have hlt : (j - 112) / d + 1 ≤ (8 * r + d - 1) / d := by
      rw [← Nat.add_div_right _ hd]
      exact Nat.div_le_div_right (by omega)
    omega

/-- At eight bits or fewer a channel, the body needs at least a channel for each of its bytes (R77). -/
theorem le_used {d : Nat} (r : Nat) (hd : legalDepth d) : 112 + r ≤ used d r := by
  unfold used ceilDiv Config.preambleChannels
  have hle : r ≤ (8 * r + d - 1) / d := by
    rw [Nat.le_div_iff_mul_le hd.1]
    calc r * d ≤ r * 8 := Nat.mul_le_mul_left _ hd.2
      _ ≤ 8 * r + d - 1 := by omega
  omega

/-- A stream within `NUMPIX_MAX` lies inside the channel memory (R31, R61). -/
theorem streamLen_le {cfg : Config.Params} {numpix : Word} (h : numpix.toNat ≤ cfg.numpixMax) :
    streamLen numpix ≤ spaceSize cfg .ch :=
  Nat.mul_le_mul_left _ h

/-- R8: a payload buffer has room for as many bytes as there are channels. -/
theorem legal_payMax {cfg : Config.Params} (h : cfg.legal = true) : spaceSize cfg .ch ≤ cfg.payMax :=
  (of_decide_eq_true h).2

/-- PACK's writes stay inside the stream (R66, R139). -/
theorem packBits_good {fni pli : Space} {d n p : Word} {size r : Nat} (hd : 1 ≤ d.toNat)
    (hsize : used d.toNat r ≤ size) {count j : Nat} {ch ch' : Space} (hj : j + count ≤ 112 + 8 * r)
    (hch : ch.Good size) (h : packBits fni pli d n p count j ch = some ch') : ch'.Good size := by
  induction count generalizing j ch with
  | zero => cases h; exact hch
  | succ count ih =>
    simp only [packBits] at h
    split at h
    · have hplace := place_lt_used (j := j) (r := r) hd (by omega)
      exact ih (by omega) (Space.writeBit_good _ _ hch (by omega)) h
    · cases h

/-! ## The spaces of the state -/

/-- Every byte space of the state is canonical and holds nothing outside its cells. -/
def State.SpacesOk (s : State) : Prop := ∀ name, (s.space name).Good (spaceSize s.cfg name)

theorem State.spacesOk_iff (s : State) : s.SpacesOk ↔ s.Canonical ∧ s.RangeOk := by
  constructor
  · intro h
    exact ⟨⟨(h .ch).1, (h .fni).1, (h .pli).1, (h .fno).1, (h .plo).1⟩, fun name => (h name).2⟩
  · rintro ⟨⟨hch, hfni, hpli, hfno, hplo⟩, hrange⟩ name
    refine ⟨?_, hrange name⟩
    cases name <;> assumption

/-- A command touches `CH`, `FNO` and `PLO` only (R60, R235). -/
theorem State.SpacesOk.of_sameInput {s t : State} (hs : s.SpacesOk) (hin : s.SameInput t)
    (hch : t.ch.Good (spaceSize s.cfg .ch)) (hfno : t.fno.Good (spaceSize s.cfg .fno))
    (hplo : t.plo.Good (spaceSize s.cfg .plo)) : t.SpacesOk := by
  obtain ⟨hcfg, -, -, -, -, hfni, hpli, -⟩ := hin
  intro name
  rw [hcfg]
  cases name with
  | ch => exact hch
  | fni => exact (congrArg (Space.Good · _) hfni).mpr (hs .fni)
  | pli => exact (congrArg (Space.Good · _) hpli).mpr (hs .pli)
  | fno => exact hfno
  | plo => exact hplo

theorem spacesOk_exec {i : Instr} {s t : State} (hlegal : s.cfg.legal = true) (hs : s.SpacesOk)
    (h : ExecResult s i t) : t.SpacesOk := by
  refine hs.of_sameInput h.sameInput ?_ ?_ ?_
  · cases h with
    | packOverflow d => exact Space.spoil_good _ _ (hs .ch)
    | packDone d n p ch hd _ hnp hfits hch =>
      refine packBits_good hd.1 (hfits.trans (streamLen_le hnp)) ?_ (hs .ch) hch
      simp only [totalBytes, bodyBytes]; omega
    | capFailed | capDone | packFailed | unpackFailed | unpackDone => exact hs .ch
  · cases h with
    | unpackFailed => exact Space.undef_good _
    | unpackDone d n name _ _ _ hname =>
      refine Space.writeBytes_good (Space.undef_good _) ?_
      have := n.isLt
      rw [hname]
      simp only [spaceSize, Config.fnMax]; omega
    | capFailed | capDone | packFailed | packOverflow | packDone => exact hs .fno
  · cases h with
    | unpackFailed => exact Space.undef_good _
    | unpackDone d n _ p payload hd _ hpayload hnp hfits =>
      refine Space.writeBytes_good (Space.undef_good _) ?_
      have hused := le_used (bodyBytes n.toNat p.toNat) hd
      have hlen := streamLen_le hnp
      have hmax := legal_payMax hlegal
      rw [hpayload]
      simp only [bodyBytes] at hused hfits
      simp only [spaceSize] at hlen hmax ⊢
      omega
    | capFailed | capDone | packFailed | packOverflow | packDone => exact hs .plo

theorem spacesOk_start {s t : State} (hs : s.SpacesOk) (h : StartResult s t) : t.SpacesOk := by
  refine hs.of_sameInput h.sameInput (h.ch ▸ hs .ch) ?_ ?_
  · cases h with
    | unpack => exact Space.undef_good _
    | cap | packFailed | pack => exact hs .fno
  · cases h with
    | unpack => exact Space.undef_good _
    | cap | packFailed | pack => exact hs .plo

/-- Where `StoreByte` writes the filename buffer (R154). -/
theorem State.storeByte_fno (s : State) (ln : Word) (k : Nat) (v : Byte) :
    (s.storeByte ln k v).fno = if 15 ≤ k ∧ k ≤ 14 + ln.toNat then s.fno.writeByte (k - 15) v else s.fno := by
  grind [State.storeByte]

/-- Where `StoreByte` writes the payload buffer (R154). -/
theorem State.storeByte_plo (s : State) (ln : Word) (k : Nat) (v : Byte) :
    (s.storeByte ln k v).plo = if 19 + ln.toNat ≤ k then s.plo.writeByte (k - 19 - ln.toNat) v else s.plo := by
  grind [State.storeByte]

end Sys2Proof.Machine
end

section
/-! PROOFS. The output record after every step (R27 to R29, R151, R167), and the whole invariant. -/

namespace Sys2Proof.Machine

/-! ## The output buffers while UNPACK runs -/

theorem State.readNext_fno (s : State) (c : Cursor) (v : Bool) :
    (s.readNext c v).fno = if c.bi + 1 = 8 ∧ 15 ≤ c.bc ∧ c.bc ≤ 14 + c.ln.toNat then
      s.fno.writeByte (c.bc - 15) (setBit c.sh c.bi v) else s.fno := by
  unfold State.readNext
  by_cases hbyte : c.bi + 1 = 8 <;> simp [hbyte, State.storeByte_fno]

theorem State.readNext_plo (s : State) (c : Cursor) (v : Bool) :
    (s.readNext c v).plo = if c.bi + 1 = 8 ∧ 19 + c.ln.toNat ≤ c.bc then
      s.plo.writeByte (c.bc - 19 - c.ln.toNat) (setBit c.sh c.bi v) else s.plo := by
  unfold State.readNext
  by_cases hbyte : c.bi + 1 = 8 <;> simp [hbyte, State.storeByte_plo]

/-- From byte 15 on the filename length latched is at most 255 (R27, R154). -/
theorem Cursor.PhaseOk.ln_le {c : Cursor} (hph : c.ph.ofUnpack = true) (h : c.PhaseOk) (hbc : 15 ≤ c.bc) :
    c.ln.toNat ≤ 255 := by
  unfold Cursor.PhaseOk at h
  cases hp : c.ph <;> simp only [hp, Phase.ofUnpack, Bool.false_eq_true] at h hph <;> omega

/-- A byte UNPACK stores lies inside its buffer (R66). -/
theorem readNext_good {s : State} {c : Cursor} (v : Bool) (hlegal : s.cfg.legal = true) (hs : s.SpacesOk)
    (hph : c.ph.ofUnpack = true) (h : c.PhaseOk) (hin : c.InStream s.cfg s.numpix.val) :
    (s.readNext c v).fno.Good (spaceSize s.cfg .fno) ∧ (s.readNext c v).plo.Good (spaceSize s.cfg .plo) := by
  constructor
  · rw [s.readNext_fno]
    split_ifs with hwrite
    · refine Space.writeByte_good _ (hs .fno) ?_
      have := h.ln_le hph hwrite.2.1
      simp only [spaceSize, Config.fnMax]; omega
    · exact hs .fno
  · rw [s.readNext_plo]
    split_ifs with hwrite
    · refine Space.writeByte_good _ (hs .plo) ?_
      have hbc := hin.bc_le (h.legalDepth_of_body hph (by omega)) (by omega)
      have hci := hin.2.1.trans (streamLen_le hin.1)
      have hmax := legal_payMax hlegal
      simp only [spaceSize] at hci hmax ⊢
      omega
    · exact hs .plo

theorem spacesOk_engine {s t : State} {c : Cursor} (hlegal : s.cfg.legal = true) (hs : s.SpacesOk)
    (hcur : s.CursorOk) (hc : s.cursor = some c) (h : EngineResult s c t) : t.SpacesOk := by
  obtain ⟨hphase, hin, -⟩ := (State.cursorOk_of_running hc).1 hcur
  have hin' := h.sameInput
  cases h with
  | capFailed | capDone | packDone | packPassed => exact hs.of_sameInput hin' (hs .ch) (hs .fno) (hs .plo)
  | packOverflow => exact hs.of_sameInput hin' (Space.spoil_good _ _ (hs .ch)) (hs .fno) (hs .plo)
  | packWrote v hph hbc hci =>
    refine hs.of_sameInput hin' (Space.writeBit_good _ _ (hs .ch) ?_) (hs .fno) (hs .plo)
    obtain ⟨hnp, hle, -⟩ := hin (Phase.ne_capCompute_of_pack hph)
    have := streamLen_le hnp
    omega
  | unpackExhausted => exact hs.of_sameInput hin' (hs .ch) (Space.undef_good _) (Space.undef_good _)
  | unpackTurn v hph =>
    obtain ⟨hfno, hplo⟩ := readNext_good v hlegal hs hph hphase (hin (Phase.ne_capCompute_of_unpack hph))
    have hch := (transitions_frame 7 s c (c.readNext v) v).2.2
    refine hs.of_sameInput hin' (hch ▸ hs .ch) ?_ ?_ <;>
      rcases transitions_cases 7 (s.readNext c v) (c.readNext v) with ⟨c', heq⟩ | ⟨e, -, heq⟩ | ⟨c', -, heq⟩ <;>
      rw [heq]
    · exact hfno
    · exact Space.undef_good _
    · exact hfno
    · exact hplo
    · exact Space.undef_good _
    · exact hplo

/-- A bit read fills the output buffers as far as the cursor then says (R154, R157). -/
theorem State.OutputProgress.readNext {s : State} {c : Cursor} (v : Bool) (hfno : s.fno.wf = true)
    (hplo : s.plo.wf = true) (h : s.OutputProgress c) : (s.readNext c v).OutputProgress (c.readNext v) := by
  obtain ⟨hname, hpayload⟩ := h
  unfold State.OutputProgress
  rw [(c.readNext_advances v).bc, s.readNext_fno, s.readNext_plo]
  by_cases hbyte : c.bi + 1 = 8
  · -- before byte 15 nothing is stored, and from then on `LN` is kept
    have hln : 15 ≤ c.bc → (c.readNext v).ln = c.ln := fun h15 => by rw [c.readNext_ln, if_neg (by omega)]
    rcases Nat.lt_or_ge c.bc 15 with hlt | hge
    · refine ⟨fun a => ?_, fun a => ?_⟩
      · rw [if_neg (by omega), hname a, if_neg (by omega), if_neg (by rw [if_pos hbyte]; omega)]
      · rw [if_neg (by omega), hpayload a, if_neg (by omega), if_neg (by rw [if_pos hbyte]; omega)]
    · rw [hln hge]
      refine ⟨fun a => ?_, fun a => ?_⟩
      · grind [Space.writeByte_known]
      · grind [Space.writeByte_known]
  · have hln : (c.readNext v).ln = c.ln := by rw [c.readNext_of_bit v hbyte]
    simp only [hln, hbyte, false_and, if_false]
    exact ⟨hname, hpayload⟩

/-! ## The output record -/

/-- The output record of a state in which UNPACK does not run. -/
theorem State.outputOk_of_not_unpacking {s : State} (h : s.unpacking = false) :
    s.OutputOk ↔ (s.upvalid = true → s.OutputDefined) ∧
      (s.upvalid = false → s.OutputRegsUndef ∧ s.fno = Space.undef ∧ s.plo = Space.undef) := by
  have hprog : ∀ c, s.cursor = some c → c.ph.ofUnpack = true → s.OutputProgress c := by
    intro c hc hph
    rw [State.unpacking, hc] at h
    exact absurd (h.symm.trans hph) (by decide)
  constructor
  · rintro ⟨hdef, hregs, hbufs, -⟩
    exact ⟨hdef, fun hup => ⟨hregs hup, hbufs hup h⟩⟩
  · rintro ⟨hdef, hundef⟩
    exact ⟨hdef, fun hup => (hundef hup).1, fun hup _ => (hundef hup).2, hprog⟩

/-- The output record of a state in which UNPACK runs, `UPVALID` being 0 (R151). -/
theorem State.outputOk_of_unpacking {s : State} {c : Cursor} (hc : s.cursor = some c) (hph : c.ph.ofUnpack = true)
    (hup : s.upvalid = false) : s.OutputOk ↔ s.OutputRegsUndef ∧ s.OutputProgress c := by
  have hrun : s.unpacking = true := by rw [State.unpacking, hc]; exact hph
  constructor
  · rintro ⟨-, hregs, -, hprog⟩
    exact ⟨hregs hup, hprog c hc hph⟩
  · rintro ⟨hregs, hprog⟩
    refine ⟨fun h => ?_, fun _ => hregs, fun _ h => ?_, fun c' hc' _ => ?_⟩
    · rw [hup] at h; cases h
    · rw [hrun] at h; cases h
    · cases hc.symm.trans hc'; exact hprog

theorem State.unpacking_of_idle {s : State} (h : s.cursor = none) : s.unpacking = false := by
  simp [State.unpacking, h]

theorem State.unpacking_of_running {s : State} {c : Cursor} (h : s.cursor = some c) :
    s.unpacking = c.ph.ofUnpack := by
  simp [State.unpacking, h]

theorem State.OutputOk.of_sameOutput {s t : State} (hs : s.OutputOk) (hout : s.SameOutput t)
    (hsu : s.unpacking = false) (htu : t.unpacking = false) : t.OutputOk := by
  rw [State.outputOk_of_not_unpacking hsu] at hs
  rw [State.outputOk_of_not_unpacking htu]
  obtain ⟨hd, hn, hp, hfno, hplo, hup⟩ := hout
  unfold State.OutputDefined State.OutputRegsUndef
  rw [hd, hn, hp, hfno, hplo, hup]
  exact hs

/-- After an error of UNPACK the output record is `undef` (R167). -/
theorem State.dropOutput_fail_outputOk (s : State) (e : ErrKind) : (s.dropOutput.fail e).OutputOk :=
  (State.outputOk_of_not_unpacking (State.unpacking_of_idle rfl)).2
    ⟨nofun, fun _ => ⟨⟨rfl, rfl, rfl⟩, rfl, rfl⟩⟩

/-- What UNPACK's closed form delivers is a complete output record (R169). -/
theorem State.deliver_outputOk (s : State) {d n : Byte} {name : List Byte} {p : Word} {payload : List Byte}
    (hd : legalDepth d.toNat) (hname : name.length = n.toNat) (hpayload : payload.length = p.toNat) :
    (s.dropOutput.deliver d n name p payload).complete.OutputOk := by
  have hwidth : ∀ b : Byte, (b.setWidth 32).toNat = b.toNat := fun b => by
    rw [BitVec.toNat_setWidth, Nat.mod_eq_of_lt (by have := b.isLt; omega)]
  refine (State.outputOk_of_not_unpacking (State.unpacking_of_idle rfl)).2 ⟨fun _ => ?_, nofun⟩
  refine ⟨rfl, (hwidth d).symm ▸ hd, rfl, setWidth_toNat_le n, rfl, fun a => ?_, fun a => ?_⟩
  · refine (Space.writeBytes_known 0 a name Space.undef_wf).trans ?_
    rw [State.complete_upFnlen, State.deliver_upFnlen, Reg.holds, hwidth, hname]
    simp [Space.undef, Memory.unlisted]
  · refine (Space.writeBytes_known 0 a payload Space.undef_wf).trans ?_
    rw [State.complete_upPlen, State.deliver_upPlen, Reg.holds, hpayload]
    simp [Space.undef, Memory.unlisted]

/-- With the last payload byte stored the output record is complete (R166, R169). -/
theorem State.finishUnpack_outputOk {s : State} {c : Cursor} (hd : legalDepth c.ld.toNat) (hn : c.ln.toNat ≤ 255)
    (hbc : c.bc = 19 + c.ln.toNat + c.lp.toNat) (h : s.OutputProgress c) : (s.finishUnpack c).OutputOk := by
  refine (State.outputOk_of_not_unpacking (State.unpacking_of_idle rfl)).2 ⟨fun _ => ?_, nofun⟩
  obtain ⟨hname, hpayload⟩ := h
  refine ⟨rfl, hd, rfl, hn, rfl, fun a => (hname a).trans ?_, fun a => (hpayload a).trans ?_⟩
  · simp only [State.finishUnpack_upFnlen, Reg.holds]
    congr 1
    exact propext ⟨fun h => h.2, fun h => ⟨by omega, h⟩⟩
  · simp only [State.finishUnpack_upPlen, Reg.holds]
    congr 1
    exact propext ⟨fun h => by omega, fun h => by omega⟩

theorem outputOk_exec {i : Instr} {s t : State} (hs : s.OutputOk) (hidle : s.cursor = none)
    (h : ExecResult s i t) : t.OutputOk := by
  have hkept : i ≠ .unpack → t.OutputOk := fun hi =>
    hs.of_sameOutput (h.sameOutput hi) (State.unpacking_of_idle hidle) (State.unpacking_of_idle h.idle)
  cases h with
  | unpackFailed e => exact State.dropOutput_fail_outputOk _ e
  | unpackDone d n name p payload hd hname hpayload => exact State.deliver_outputOk _ hd hname hpayload
  | capFailed | capDone | packFailed | packOverflow | packDone => exact hkept nofun

theorem outputOk_start {s t : State} (hs : s.OutputOk) (hidle : s.cursor = none) (h : StartResult s t) :
    t.OutputOk := by
  have hsame : ∀ {u : State}, s.SameOutput u → u.unpacking = false → u.OutputOk := fun hout hu =>
    hs.of_sameOutput hout (State.unpacking_of_idle hidle) hu
  cases h with
  | cap | packFailed | pack => exact hsame ⟨rfl, rfl, rfl, rfl, rfl, rfl⟩ rfl
  | unpack =>
    rw [State.outputOk_of_unpacking rfl rfl rfl]
    exact ⟨⟨rfl, rfl, rfl⟩, fun a => rfl, fun a => rfl⟩

theorem outputOk_engine {s t : State} {c : Cursor} (hs : s.OutputOk) (hspaces : s.SpacesOk) (hcur : s.CursorOk)
    (hc : s.cursor = some c) (h : EngineResult s c t) : t.OutputOk := by
  obtain ⟨hphase, hin, hup⟩ := (State.cursorOk_of_running hc).1 hcur
  have hkept : c.ph.ofUnpack = false → t.unpacking = false → t.OutputOk := fun hph htu =>
    hs.of_sameOutput (h.sameOutput hph) ((State.unpacking_of_running hc).trans hph) htu
  have hpack : c.ph = .packPreamble ∨ c.ph = .packBody → c.ph.ofUnpack = false := by rintro (h | h) <;> rw [h] <;> rfl
  cases h with
  | capFailed _ hph | capDone _ hph => exact hkept (by rw [hph]; rfl) rfl
  | packDone hph | packOverflow hph => exact hkept (hpack hph) rfl
  | packWrote _ hph hbc hci | packPassed hph hbc hci =>
    exact hkept (hpack hph) (Cursor.packNext_sound hph hphase (hin (Phase.ne_capCompute_of_pack hph)) hbc hci).2.2
  | unpackExhausted => exact State.dropOutput_fail_outputOk _ _
  | unpackTurn v hph hci =>
    obtain ⟨hregs, hprog⟩ := (State.outputOk_of_unpacking hc hph (hup hph)).1 hs
    have hprog' := hprog.readNext v (hspaces .fno).1 (hspaces .plo).1
    rcases transitions_readNext (s.readNext c v) v hph hphase (hin (Phase.ne_capCompute_of_unpack hph)) hci with
      ⟨c', ⟨-, -, hph'⟩, hbc', hln', heq⟩ | ⟨e, -, heq⟩ | ⟨c', ⟨hd, hn, hend⟩, hbc', hln', heq⟩
    · rw [heq]
      unfold State.OutputProgress at hprog'
      rw [← hbc', ← hln'] at hprog'
      refine (State.outputOk_of_unpacking rfl hph' ?_).2 ⟨?_, hprog'⟩
      · rw [s.readNext_eq]; exact hup hph
      · rw [s.readNext_eq]; exact hregs
    · rw [heq]; exact State.dropOutput_fail_outputOk _ e
    · rw [heq]
      unfold State.OutputProgress at hprog'
      rw [← hbc', ← hln'] at hprog'
      exact State.finishUnpack_outputOk hd hn hend hprog'

/-! ## The whole invariant -/

theorem State.inv_iff (s : State) :
    s.Inv ↔ s.cfg.legal = true ∧ s.FlagsOk ∧ s.CursorOk ∧ s.SpacesOk ∧ s.OutputOk := by
  rw [s.spacesOk_iff]
  constructor
  · rintro ⟨hlegal, hcanonical, hflags, hcursor, hrange, houtput⟩
    exact ⟨hlegal, hflags, hcursor, ⟨hcanonical, hrange⟩, houtput⟩
  · rintro ⟨hlegal, hflags, hcursor, ⟨hcanonical, hrange⟩, houtput⟩
    exact ⟨hlegal, hcanonical, hflags, hcursor, hrange, houtput⟩

theorem State.hardReset_inv {s : State} (hlegal : s.cfg.legal = true) : s.hardReset.Inv :=
  s.hardReset.inv_iff.2 ⟨hlegal, State.flagsOk_reset, State.cursorOk_of_idle rfl,
    fun name => by cases name <;> exact Space.undef_good _,
    (State.outputOk_of_not_unpacking rfl).2 ⟨nofun, fun _ => ⟨⟨rfl, rfl, rfl⟩, rfl, rfl⟩⟩⟩

/-- A host write of bytes writes the space it names, where the host may write it, and no other (R38, R60). -/
theorem State.hostWriteBytes_space (s : State) (name target : SpaceName) (a : Nat) (bs : List Byte) :
    (s.hostWriteBytes name a bs).space target =
      if target = name ∧ name ≠ .fno ∧ name ≠ .plo then (s.space name).writeBytes a bs else s.space target := by
  cases name <;> cases target <;> rfl

theorem hostWriteBytes_spacesOk {s : State} (name : SpaceName) {a : Nat} {bs : List Byte} (hs : s.SpacesOk)
    (hrange : a + bs.length ≤ spaceSize s.cfg name) : (s.hostWriteBytes name a bs).SpacesOk := by
  intro target
  rw [s.hostWriteBytes_space, s.hostWriteBytes_eq]
  split_ifs with htarget
  · rw [htarget.1]
    exact Space.writeBytes_good (hs name) hrange
  · exact hs target

theorem hostWrite_inv {s t : State} {v : Word} {reg : Nat} (hs : s.Inv) (hidle : s.cursor = none)
    (h : s.hostWrite v reg = some t) : t.Inv := by
  obtain ⟨hlegal, hflags, hcursor, hspaces, houtput⟩ := s.inv_iff.1 hs
  have hflags' := flagsOk_kept.hostWrite hflags hidle h
  have hcursor' := cursorOk_kept.hostWrite hcursor hidle h
  rw [State.inv_iff]
  rcases State.hostWrite_some h with rfl | rfl | rfl | rfl | rfl <;>
    exact ⟨hlegal, hflags', hcursor', hspaces, houtput⟩

theorem hostWriteBytes_inv {s : State} {name : SpaceName} {a : Nat} {bs : List Byte} (hs : s.Inv)
    (hidle : s.cursor = none) (hrange : a + bs.length ≤ spaceSize s.cfg name) :
    (s.hostWriteBytes name a bs).Inv := by
  obtain ⟨hlegal, hflags, hcursor, hspaces, houtput⟩ := s.inv_iff.1 hs
  have hflags' := flagsOk_kept.hostWriteBytes hflags hidle hrange
  have hcursor' := cursorOk_kept.hostWriteBytes hcursor hidle hrange
  have hspaces' := hostWriteBytes_spacesOk name hspaces hrange
  rw [State.inv_iff]
  rw [s.hostWriteBytes_eq] at hflags' hcursor' hspaces' ⊢
  exact ⟨hlegal, hflags', hcursor', hspaces', houtput⟩

theorem illegalCommand_inv {s : State} (hs : s.Inv) (hidle : s.cursor = none) : s.illegalCommand.Inv := by
  obtain ⟨hlegal, -, -, hspaces, houtput⟩ := s.inv_iff.1 hs
  exact s.illegalCommand.inv_iff.2 ⟨hlegal, State.flagsOk_fail _ (by decide), State.cursorOk_of_idle rfl, hspaces,
    houtput.of_sameOutput ⟨rfl, rfl, rfl, rfl, rfl, rfl⟩ (State.unpacking_of_idle hidle) rfl⟩

theorem inv_kept : KeptByMoves State.Inv where
  hostSide _ _ _ hs := ⟨hs.legal, hs.canonical, hs.flags, hs.cursor, hs.range, hs.output⟩
  hostWrite := hostWrite_inv
  hostWriteBytes := hostWriteBytes_inv
  hardReset hs := State.hardReset_inv hs.legal
  illegalCommand := illegalCommand_inv
  exec {i s t} hs hidle h := by
    obtain ⟨hlegal, hflags, hcursor, hspaces, houtput⟩ := s.inv_iff.1 hs
    exact t.inv_iff.2 ⟨h.sameInput.1 ▸ hlegal, flagsOk_exec h, State.cursorOk_of_idle h.idle,
      spacesOk_exec hlegal hspaces h, outputOk_exec houtput hidle h⟩
  start {s t} hs hidle h := by
    obtain ⟨hlegal, -, -, hspaces, houtput⟩ := s.inv_iff.1 hs
    exact t.inv_iff.2 ⟨h.sameInput.1 ▸ hlegal, flagsOk_start h, cursorOk_start h,
      spacesOk_start hspaces h, outputOk_start houtput hidle h⟩
  engine {s t c} hs hc h := by
    obtain ⟨hlegal, hflags, hcursor, hspaces, houtput⟩ := s.inv_iff.1 hs
    exact t.inv_iff.2 ⟨h.sameInput.1 ▸ hlegal, flagsOk_engine hflags hc h, cursorOk_engine hcursor hc h,
      spacesOk_engine hlegal hspaces hcursor hc h, outputOk_engine houtput hspaces hcursor hc h⟩

/-- Settles O58: the invariant is kept by every move, and so by every step. -/
theorem stepKeepsInv : Obligations.StepKeepsInv :=
  fun _ _ hs h => inv_kept.step hs h

/-- Settles O59: the reset state is the block as after any reset, with the parameters of log 4. -/
theorem resetInv : Obligations.ResetInv :=
  State.hardReset_inv (s := State.reset) (by decide)

end Sys2Proof.Machine
end

section
/-! PROOFS. A command that comes to an `undef` cell is refused (R21): UNPACK at a bit of the stream, PACK at a byte of its
record, each command at an operand register. -/

namespace Sys2Proof.Machine

/-! ## UNPACK -/

theorem streamBytes_eq_none {ch : Space} {d k n i : Nat} (hi : i < n) (h : streamByte ch d (k + i) = none) :
    streamBytes ch d k n = none := by
  induction n generalizing k i with
  | zero => omega
  | succ n ih =>
    simp only [streamBytes]
    cases i with
    | zero => rw [show k = k + 0 from rfl, h]
    | succ i =>
      rw [ih (k := k + 1) (i := i) (by omega) (by rwa [Nat.add_assoc, Nat.add_comm 1 i])]
      cases streamByte ch d k <;> rfl

/-- A stream too short for the next boundary is read to its end (R156): an `undef` bit of it refuses the command. -/
theorem unpackTruncated_undef {ch : Space} {len d j : Nat} (hj : j < streamBits len d)
    (hb : streamBit ch d j = none) : unpackTruncated ch len d = .undef := by
  have hknown : ¬ bitsKnown ch d 0 (streamBits len d) = true := fun h => by
    have := bitsKnown_eq_true.1 h j hj
    rw [Nat.zero_add, hb] at this
    cases this
  rw [unpackTruncated, if_neg hknown]

/-- At depth 1 the first 112 serialized bits are bit 0 of the first 112 channels (R76). -/
theorem streamBit_low {ch : Space} {j : Nat} (d : Nat) (hj : j < 112) : streamBit ch d j = ch.readBit j 0 := by
  rw [streamBit, place, Config.preambleChannels, if_pos hj]

theorem lt_streamBits_preamble {j len d : Nat} (hj : j < 112) (hlen : j < len) : j < streamBits len d := by
  unfold streamBits Config.preambleChannels
  split_ifs <;> omega

/-- Where the bit stands that is `undef` inside a byte, the byte is `undef`. -/
theorem streamByte_div_eq_none {ch : Space} {d j : Nat} (hb : streamBit ch d j = none) :
    streamByte ch d (j / 8) = none :=
  streamByte_eq_none (j := j) (by omega) (by omega) hb

theorem unpackStream_undef_magic {ch : Space} {len j : Nat} (hj : j < 104) (hlen : j < len)
    (hb : ch.readBit j 0 = none) : unpackStream ch len = .undef := by
  have hbit : streamBit ch 1 j = none := (streamBit_low 1 (by omega)).trans hb
  unfold unpackStream
  split_ifs
  · exact unpackTruncated_undef (lt_streamBits_preamble (by omega) hlen) hbit
  · rw [streamBytes_eq_none (k := 0) (i := j / 8) (by simp only [Config.magicLen]; omega)
      (by rw [Nat.zero_add]; exact streamByte_div_eq_none hbit)]

/-- A stream that starts with the magic. -/
def MagicAt (ch : Space) : Prop := ∀ k, k < 13 → streamByte ch 1 k = some (Config.magic.getD k 0)

/-- Known bytes of the stream are read as the list of their values (R168). -/
theorem streamBytes_of_known {ch : Space} {d k n : Nat} {f : Nat → Byte}
    (h : ∀ i, i < n → streamByte ch d (k + i) = some (f i)) : streamBytes ch d k n = some ((List.range n).map f) := by
  induction n generalizing k f with
  | zero => rfl
  | succ n ih =>
    have htail := ih (k := k + 1) (f := fun i => f (i + 1)) fun i hi => by
      rw [Nat.add_assoc, Nat.add_comm 1 i]
      exact h (i + 1) (by omega)
    simp only [streamBytes, htail, show streamByte ch d k = some (f 0) from h 0 (by omega)]
    simp [List.range_succ_eq_map, Function.comp_def]

theorem MagicAt.streamBytes_eq {ch : Space} (h : MagicAt ch) : streamBytes ch 1 0 Config.magicLen = some Config.magic := by
  rw [streamBytes_of_known (f := fun i => Config.magic.getD i 0) fun i hi => by rw [Nat.zero_add]; exact h i hi]
  rfl

/-- With the magic in the stream, UNPACK comes to the depth byte (R168). -/
theorem unpackStream_of_magic {ch : Space} {len : Nat} (h : MagicAt ch) (hlen : 104 ≤ len) :
    unpackStream ch len = unpackDepth ch len := by
  unfold unpackStream
  rw [if_neg (by simp only [Config.magicLen]; omega), h.streamBytes_eq]
  simp

theorem unpackStream_undef_depth {ch : Space} {len j : Nat} (h : MagicAt ch) (hj : j < 112) (hlen : j < len)
    (hb : ch.readBit j 0 = none) : unpackStream ch len = .undef := by
  rcases Nat.lt_or_ge j 104 with hmagic | hmagic
  · exact unpackStream_undef_magic hmagic hlen hb
  have hbit : streamBit ch 1 j = none := (streamBit_low 1 hj).trans hb
  rw [unpackStream_of_magic h (by omega)]
  unfold unpackDepth
  split_ifs
  · exact unpackTruncated_undef (lt_streamBits_preamble hj hlen) hbit
  · rw [← show j / 8 = 13 by omega, streamByte_div_eq_none hbit]

/-- With the magic and a legal depth in the stream, an `undef` bit refuses the command where the body's reading does. -/
theorem unpackStream_undef_body {ch : Space} {len j : Nat} {d : Byte} (h : MagicAt ch)
    (hd : streamByte ch 1 13 = some d) (hlegal : legalDepth d.toNat) (hj : j < streamBits len d.toNat)
    (hb : streamBit ch d.toNat j = none) (hbody : 112 ≤ j → unpackBody ch len d = .undef) :
    unpackStream ch len = .undef := by
  rcases Nat.lt_or_ge j 112 with hpre | hpre
  · have hlen : j < len := by
      unfold streamBits Config.preambleChannels at hj
      split_ifs at hj <;> omega
    exact unpackStream_undef_depth h hpre hlen ((streamBit_low d.toNat hpre).symm.trans hb)
  · have hlen : 112 < len := by
      unfold streamBits Config.preambleChannels at hj
      split_ifs at hj <;> omega
    rw [unpackStream_of_magic h (by omega), unpackDepth, if_neg (by simp only [Config.preambleChannels]; omega), hd]
    simp only
    rw [if_neg (by unfold legalDepth at hlegal; omega), hbody hpre]

/-- The filename length: an `undef` bit before byte 15. -/
theorem unpackBody_undef {ch : Space} {len j : Nat} {d : Byte} (hj : j < streamBits len d.toNat)
    (hb : streamBit ch d.toNat j = none) (hbyte : j / 8 = 14) : unpackBody ch len d = .undef := by
  unfold unpackBody
  split_ifs
  · exact unpackTruncated_undef hj hb
  · rw [← hbyte, streamByte_div_eq_none hb]

theorem unpackBody_undef_of_lengths {ch : Space} {len j : Nat} {d n : Byte} (hj : j < streamBits len d.toNat)
    (hb : streamBit ch d.toNat j = none) (hn : streamByte ch d.toNat 14 = some n)
    (hlengths : unpackLengths ch len d n = .undef) : unpackBody ch len d = .undef := by
  unfold unpackBody
  split_ifs
  · exact unpackTruncated_undef hj hb
  · rw [hn]; exact hlengths

/-- Filename and payload length: an `undef` bit of bytes 15 to 18 + N. -/
theorem unpackLengths_undef {ch : Space} {len j : Nat} {d n : Byte} (hj : j < streamBits len d.toNat)
    (hb : streamBit ch d.toNat j = none) (hlo : 15 ≤ j / 8) (hhi : j / 8 < 19 + n.toNat) :
    unpackLengths ch len d n = .undef := by
  have hbyte := streamByte_div_eq_none hb
  unfold unpackLengths
  split
  · exact unpackTruncated_undef hj hb
  · split
    · rename_i b0 b1 b2 b3 h0 h1 h2 h3
      have hname : j / 8 < 15 + n.toNat := by
        by_contra hge
        obtain h | h | h | h : j / 8 = 15 + n.toNat ∨ j / 8 = 16 + n.toNat ∨ j / 8 = 17 + n.toNat ∨
          j / 8 = 18 + n.toNat := by omega
        all_goals rw [h] at hbyte; simp_all
      have hknown : ¬ bitsKnown ch d.toNat (8 * 15) (8 * n.toNat) = true := fun h => by
        have := bitsKnown_eq_true.1 h (j - 120) (by omega)
        rw [show 8 * 15 + (j - 120) = j by omega, hb] at this
        cases this
      rw [if_neg hknown]
    · rfl

theorem unpackPayload_undef {ch : Space} {len j : Nat} {d n : Byte} {p : Word} (hj : j < streamBits len d.toNat)
    (hb : streamBit ch d.toNat j = none) (hlo : 19 + n.toNat ≤ j / 8) (hhi : j / 8 < 19 + n.toNat + p.toNat) :
    unpackPayload ch len d n p = .undef := by
  unfold unpackPayload
  split
  · exact unpackTruncated_undef hj hb
  · rw [streamBytes_eq_none (k := 19 + n.toNat) (i := j / 8 - (19 + n.toNat)) (by omega)
      (by rw [Nat.add_sub_cancel' hlo]; exact streamByte_div_eq_none hb)]
    cases streamBytes ch d.toNat 15 n.toNat <;> rfl

theorem unpackLengths_undef_of_payload {ch : Space} {len j : Nat} {d n b0 b1 b2 b3 : Byte}
    (hj : j < streamBits len d.toNat) (hb : streamBit ch d.toNat j = none)
    (h0 : streamByte ch d.toNat (15 + n.toNat) = some b0) (h1 : streamByte ch d.toNat (16 + n.toNat) = some b1)
    (h2 : streamByte ch d.toNat (17 + n.toNat) = some b2) (h3 : streamByte ch d.toNat (18 + n.toNat) = some b3)
    (hpayload : unpackPayload ch len d n (unLe32 b0 b1 b2 b3) = .undef) : unpackLengths ch len d n = .undef := by
  unfold unpackLengths
  split
  · exact unpackTruncated_undef hj hb
  · rw [h0, h1, h2, h3]
    simp only [hpayload, ite_self]

/-- A known byte has no `undef` bit. -/
theorem div_ne_of_known {ch : Space} {d j k : Nat} {b : Byte} (hk : streamByte ch d k = some b)
    (hb : streamBit ch d j = none) : j / 8 ≠ k := by
  rintro rfl
  rw [streamByte_div_eq_none hb] at hk
  cases hk

theorem exec_unpack_refused {s : State} {np : Word} (hs : s.UnpackReady np)
    (h : unpackStream s.ch (streamLen np) = .undef) : exec .unpack s = .refused .undefOperand := by
  have hover : s.numpixOver = false := by
    rw [State.numpixOver_holds hs.numpix]
    simpa using hs.inRange
  unfold exec execUnpack
  rw [State.begin_idle _ hs.idle hover, State.started_numpix, hs.numpix, State.withOperand_holds]
  simp [unpackRead, h]

section
variable {ch : Space} {len j : Nat} {d n : Byte} (hmagic : MagicAt ch) (hd : streamByte ch 1 13 = some d)
  (hlegal : legalDepth d.toNat) (hlen : j < streamBits len d.toNat) (hb : streamBit ch d.toNat j = none)
include hmagic hd hlegal hlen hb

theorem unpackStream_undef_fnlen (hj : j < 8 * 15) : unpackStream ch len = .undef :=
  unpackStream_undef_body hmagic hd hlegal hlen hb fun hpre => unpackBody_undef hlen hb (by omega)

theorem unpackStream_undef_lengths (hn : streamByte ch d.toNat 14 = some n) (hj : j < 8 * (19 + n.toNat)) :
    unpackStream ch len = .undef := by
  refine unpackStream_undef_body hmagic hd hlegal hlen hb fun hpre => ?_
  have hne := div_ne_of_known hn hb
  exact unpackBody_undef_of_lengths hlen hb hn (unpackLengths_undef hlen hb (by omega) (by omega))

theorem unpackStream_undef_payload {b0 b1 b2 b3 : Byte} (hn : streamByte ch d.toNat 14 = some n)
    (h0 : streamByte ch d.toNat (15 + n.toNat) = some b0) (h1 : streamByte ch d.toNat (16 + n.toNat) = some b1)
    (h2 : streamByte ch d.toNat (17 + n.toNat) = some b2) (h3 : streamByte ch d.toNat (18 + n.toNat) = some b3)
    (hj : j < 8 * totalBytes n.toNat (unLe32 b0 b1 b2 b3).toNat) : unpackStream ch len = .undef := by
  rcases Nat.lt_or_ge j (8 * (19 + n.toNat)) with hlengths | hpayload
  · exact unpackStream_undef_lengths hmagic hd hlegal hlen hb hn hlengths
  · unfold totalBytes at hj
    refine unpackStream_undef_body hmagic hd hlegal hlen hb fun hpre => ?_
    exact unpackBody_undef_of_lengths hlen hb hn (unpackLengths_undef_of_payload hlen hb h0 h1 h2 h3
      (unpackPayload_undef hlen hb (by omega) (by omega)))

end

/-! ## PACK -/

theorem packBits_eq_none {fni pli : Space} {d n p : Word} {count j i : Nat} {ch : Space} (hlo : j ≤ i)
    (hhi : i < j + count) (h : serBit fni pli d n p i = none) : packBits fni pli d n p count j ch = none := by
  induction count generalizing j ch with
  | zero => omega
  | succ count ih =>
    simp only [packBits]
    rcases Nat.eq_or_lt_of_le hlo with rfl | hlt
    · rw [h]
    · cases serBit fni pli d n p j with
      | none => rfl
      | some v => exact ih hlt (by omega)

/-- Bytes 15 to 14 + N of the sequence are the filename (R93). -/
theorem ser_filename {fni pli : Space} {d n p : Word} {i : Nat} (hi : i < n.toNat) :
    ser fni pli d n p (15 + i) = fni.readByte i := by
  unfold ser
  rw [if_neg (by omega), if_neg (by omega), if_neg (by omega), if_pos (by omega), Nat.add_sub_cancel_left]

/-- The bytes from 19 + N on are the payload (R93). -/
theorem ser_payload (fni pli : Space) (d n p : Word) (i : Nat) :
    ser fni pli d n p (19 + n.toNat + i) = pli.readByte i := by
  unfold ser
  rw [if_neg (by omega), if_neg (by omega), if_neg (by omega), if_neg (by omega), if_neg (by omega),
    show 19 + n.toNat + i - 19 - n.toNat = i by omega]

theorem packStream_eq_none {s : State} {d n p : Word} {k : Nat} (hk : k < totalBytes n.toNat p.toNat)
    (h : ser s.fni s.pli d n p k = none) : packStream s d n p = none := by
  refine packBits_eq_none (i := 8 * k) (Nat.zero_le _) (by omega) ?_
  rw [serBit, Nat.mul_div_cancel_left k (by decide), h]
  rfl

/-- An `undef` byte of the record is an `undef` byte of the sequence (R93). -/
theorem packStream_of_undef_buffers {s : State} {d n p : Word} (h : ¬ s.BuffersDefined n p) :
    packStream s d n p = none := by
  have hnone : ∀ {o : Option Byte}, ¬ o.isSome = true → o = none := by
    intro o ho; simpa using ho
  unfold State.BuffersDefined at h
  rw [not_and_or] at h
  push Not at h
  rcases h with ⟨i, hi, hundef⟩ | ⟨i, hi, hundef⟩
  · exact packStream_eq_none (k := 15 + i) (by unfold totalBytes; omega) ((ser_filename hi).trans (hnone hundef))
  · exact packStream_eq_none (k := 19 + n.toNat + i) (by unfold totalBytes; omega)
      ((ser_payload ..).trans (hnone hundef))

/-! ## The order in which a command comes to its operands -/

section
variable {s : State} (hidle : s.cursor = none) (hover : s.numpixOver = false)
include hidle hover

theorem exec_cap_idle : exec .cap s = capCompute s.started := State.begin_idle capCompute hidle hover

theorem exec_pack_idle : exec .pack s = packChecked s.started (packWrite s.started) :=
  State.begin_idle (fun s0 => packChecked s0 (packWrite s0)) hidle hover

theorem exec_unpack_idle : exec .unpack s =
    s.started.withOperand s.started.numpix fun np => unpackRead s.started.dropOutput np :=
  State.begin_idle (fun s0 => s0.withOperand s0.numpix fun np => unpackRead s0.dropOutput np) hidle hover

end

section
variable {s : State} {d n : Word}

/-- A legal filename length: CAP comes to `PK_DEPTH` (R122). -/
theorem capCompute_of_fnlen (hn : s.pkFnlen = Reg.holds n) (hle : n.toNat ≤ 255) :
    capCompute s = s.withOperand s.pkDepth fun d =>
      if d.toNat < 1 ∨ 8 < d.toNat then .next (s.capFail .invalidBitDepth)
      else s.withOperand s.numpix fun np =>
        .next { s with capres := Reg.holds (BitVec.ofInt 32 (capacityBytes np.toNat d.toNat n.toNat)) }.complete := by
  rw [capCompute, hn, State.withOperand_holds, if_neg (show ¬ Config.fnMax < n.toNat from Nat.not_lt.2 hle)]

/-- A legal filename length: PACK comes to `PK_DEPTH` (R131). -/
theorem packChecked_of_fnlen (body : Word → Word → Word → Word → Host.Outcome State Fault Refusal)
    (hn : s.pkFnlen = Reg.holds n) (hle : n.toNat ≤ 255) :
    packChecked s body = s.withOperand s.pkDepth fun d =>
      if d.toNat < 1 ∨ 8 < d.toNat then .next (s.fail .invalidBitDepth)
      else s.withOperand s.pkPlen fun p => s.withOperand s.numpix fun np => body d n p np := by
  rw [packChecked, hn, State.withOperand_holds, if_neg (show ¬ Config.fnMax < n.toNat from Nat.not_lt.2 hle)]

theorem not_illegalDepth (hd : legalDepth d.toNat) : ¬ (d.toNat < 1 ∨ 8 < d.toNat) := by
  unfold legalDepth at hd; omega

/-- Both checks passed: CAP comes to `NUMPIX` (R121). -/
theorem capCompute_of_depth (hn : s.pkFnlen = Reg.holds n) (hle : n.toNat ≤ 255) (hdepth : s.pkDepth = Reg.holds d)
    (hd : legalDepth d.toNat) :
    capCompute s = s.withOperand s.numpix fun np =>
      .next { s with capres := Reg.holds (BitVec.ofInt 32 (capacityBytes np.toNat d.toNat n.toNat)) }.complete := by
  rw [capCompute_of_fnlen hn hle, hdepth, State.withOperand_holds, if_neg (not_illegalDepth hd)]

/-- Both checks passed: PACK comes to `PK_PLEN`, then to `NUMPIX` (R130). -/
theorem packChecked_of_depth (body : Word → Word → Word → Word → Host.Outcome State Fault Refusal)
    (hn : s.pkFnlen = Reg.holds n) (hle : n.toNat ≤ 255) (hdepth : s.pkDepth = Reg.holds d)
    (hd : legalDepth d.toNat) :
    packChecked s body = s.withOperand s.pkPlen fun p => s.withOperand s.numpix fun np => body d n p np := by
  rw [packChecked_of_fnlen body hn hle, hdepth, State.withOperand_holds, if_neg (not_illegalDepth hd)]

end

/-- A PACK that passes its checks writes the stream or overflows it (R137 to R139). -/
theorem exec_pack_legal {s : State} {d n p np : Word} (hs : s.PackLegal d n p np) :
    exec .pack s = packWrite s.started d n p np := by
  have hover : s.numpixOver = false := by
    rw [State.numpixOver_holds hs.numpix]
    simpa using hs.inRange
  rw [exec_pack_idle hs.idle hover, packChecked_of_depth (s := s.started) _ hs.fnlen hs.short hs.depth hs.legal,
    State.started_pkPlen, hs.plen, State.withOperand_holds, State.started_numpix, hs.numpix, State.withOperand_holds]

theorem exec_pack_undef_buffers {s : State} {d n p np : Word} (hs : s.PackLegal d n p np) (hfits : Fits d n p np)
    (h : ¬ s.BuffersDefined n p) : exec .pack s = .refused .undefOperand := by
  have hfits' : packFits (streamLen np) d n p = true := decide_eq_true hfits
  have hundef : packStream s.started d n p = none := packStream_of_undef_buffers h
  rw [exec_pack_legal hs, packWrite, if_pos hfits', hundef]

/-! ## Operand registers -/

section
variable {s : State} (hcfg : s.cfg.undefRegs = .refuse) (hidle : s.cursor = none) (hover : s.numpixOver = false)
include hcfg hidle hover

theorem exec_undef_fnlen (h : s.pkFnlen.defined = false) :
    exec .cap s = .refused .undefOperand ∧ exec .pack s = .refused .undefOperand := by
  rw [exec_cap_idle hidle hover, exec_pack_idle hidle hover]
  exact ⟨State.withOperand_undef _ hcfg h, State.withOperand_undef _ hcfg h⟩

theorem exec_undef_depth {n : Word} (hn : s.pkFnlen = Reg.holds n) (hle : n.toNat ≤ 255)
    (h : s.pkDepth.defined = false) :
    exec .cap s = .refused .undefOperand ∧ exec .pack s = .refused .undefOperand := by
  rw [exec_cap_idle hidle hover, exec_pack_idle hidle hover,
    capCompute_of_fnlen (s := s.started) hn hle, packChecked_of_fnlen (s := s.started) _ hn hle]
  exact ⟨State.withOperand_undef _ hcfg h, State.withOperand_undef _ hcfg h⟩

theorem exec_pack_undef_plen {d n : Word} (hn : s.pkFnlen = Reg.holds n) (hle : n.toNat ≤ 255)
    (hdepth : s.pkDepth = Reg.holds d) (hd : legalDepth d.toNat) (h : s.pkPlen.defined = false) :
    exec .pack s = .refused .undefOperand := by
  rw [exec_pack_idle hidle hover, packChecked_of_depth (s := s.started) _ hn hle hdepth hd]
  exact State.withOperand_undef _ hcfg h

theorem exec_undef_numpix {d n : Word} (hn : s.pkFnlen = Reg.holds n) (hle : n.toNat ≤ 255)
    (hdepth : s.pkDepth = Reg.holds d) (hd : legalDepth d.toNat) (h : s.numpix.defined = false) :
    exec .cap s = .refused .undefOperand ∧ exec .pack s = .refused .undefOperand := by
  have hnumpix : ∀ k, s.started.withOperand s.started.numpix k = .refused .undefOperand := fun k =>
    State.withOperand_undef k hcfg h
  rw [exec_cap_idle hidle hover, exec_pack_idle hidle hover,
    capCompute_of_depth (s := s.started) hn hle hdepth hd,
    packChecked_of_depth (s := s.started) _ hn hle hdepth hd]
  refine ⟨hnumpix _, ?_⟩
  simp only [hnumpix]
  -- `PK_PLEN` stands before `NUMPIX`: defined or not, the command is refused
  unfold State.withOperand
  split <;> rfl

theorem exec_unpack_undef_numpix (h : s.numpix.defined = false) : exec .unpack s = .refused .undefOperand := by
  rw [exec_unpack_idle hidle hover]
  exact State.withOperand_undef _ hcfg h

end

/-- Settles O53: UNPACK at each bit it comes to, PACK at each byte of its record, each command at each operand register. -/
theorem undefOperandRefused : Obligations.UndefOperandRefused := by
  refine ⟨fun s np hs => ?_, fun s d n p np hs hfits h => exec_pack_undef_buffers hs hfits h,
    fun s hcfg hidle hover => ?_⟩
  · refine ⟨fun j hj hlen hb => exec_unpack_refused hs (unpackStream_undef_magic hj hlen hb), fun hmagic =>
      ⟨fun j hj hlen hb => exec_unpack_refused hs (unpackStream_undef_depth hmagic hj hlen hb), fun d hd hlegal =>
        ⟨fun j hj hlen hb => exec_unpack_refused hs (unpackStream_undef_fnlen hmagic hd hlegal hlen hb hj),
          fun n hn => ⟨fun j hj hlen hb => ?_, fun b0 b1 b2 b3 h0 h1 h2 h3 j hj hlen hb => ?_⟩⟩⟩⟩
    · exact exec_unpack_refused hs (unpackStream_undef_lengths hmagic hd hlegal hlen hb hn hj)
    · exact exec_unpack_refused hs (unpackStream_undef_payload hmagic hd hlegal hlen hb hn h0 h1 h2 h3 hj)
  · exact ⟨exec_undef_fnlen hcfg hidle hover, fun n hn hle => exec_undef_depth hcfg hidle hover hn hle,
      fun n d hn hle hdepth hd => ⟨exec_pack_undef_plen hcfg hidle hover hn hle hdepth hd,
        exec_undef_numpix hcfg hidle hover hn hle hdepth hd⟩, exec_unpack_undef_numpix hcfg hidle hover⟩

end Sys2Proof.Machine
end

section
/-! PROOFS. Registers, STATUS, ERRCODE and the reset state as the host reads them (R31, R34, R35, R38, R52). -/

namespace Sys2Proof.Machine

/-- Every command starts alike (R184). -/
theorem exec_eq_begin (i : Instr) : ∃ body, ∀ s, exec i s = s.begin body := by
  cases i with
  | cap => exact ⟨capCompute, fun _ => rfl⟩
  | pack => exact ⟨fun s0 => packChecked s0 (packWrite s0), fun _ => rfl⟩
  | unpack => exact ⟨fun s0 => s0.withOperand s0.numpix fun np => unpackRead s0.dropOutput np, fun _ => rfl⟩

/-- Settles O52: `NUMPIX` is tested at the start, before any command's own checks. -/
theorem numpixTooLarge : Obligations.NumpixTooLarge := by
  intro i s np hidle hnp hover
  obtain ⟨body, hexec⟩ := exec_eq_begin i
  rw [hexec]
  simp [State.begin, State.busy, hidle, State.numpixOver_holds hnp, hover]

/-- One move of an idle engine's host (R180 to R186). -/
theorem step_idle {s : State} {m : HostMove} {rest : List HostMove} (hidle : s.cursor = none)
    (hscript : s.script = m :: rest) : step s = idleMove m rest s := by
  simp [step, machineStep, hscript, State.busy, hidle]

/-- R38: the register numbers from `0x0B` on are reserved. -/
theorem hostRead_reserved {s : State} {reg : Nat} (free : Word) (h : 0x0B ≤ reg) : s.hostRead free reg = none := by
  obtain ⟨k, rfl⟩ := Nat.exists_eq_add_of_le' h
  rfl

theorem hostWrite_reserved {s : State} {reg : Nat} (v : Word) (h : 0x0B ≤ reg) : s.hostWrite v reg = none := by
  obtain ⟨k, rfl⟩ := Nat.exists_eq_add_of_le' h
  rfl

/-- R38 and R181: a write of a read-only register is ignored. -/
theorem hostWrite_readOnly (s : State) {reg : Nat} (v : Word)
    (h : reg = 0x01 ∨ reg = 0x02 ∨ reg = 0x07 ∨ reg = 0x08 ∨ reg = 0x09 ∨ reg = 0x0A) :
    s.hostWrite v reg = some s := by
  rcases h with rfl | rfl | rfl | rfl | rfl | rfl <;> rfl

/-- Settles O40: the host's move on an idle engine, by register number and by space. -/
theorem reservedAndReadOnly : Obligations.ReservedAndReadOnly := by
  refine fun s rest hidle => ⟨fun reg v hreg hscript => ?_, fun reg v hreg hscript => ?_,
    fun name a bs hname hrange hscript => ?_⟩
  · rcases hscript with hscript | hscript <;> rw [step_idle hidle hscript]
    · simp [idleMove, hostWr, hostWrite_reserved v hreg, show reg ≠ 0 by omega]
    · simp [idleMove, hostRd, hostRead_reserved _ hreg]
  · rw [step_idle hidle hscript]
    simp [idleMove, hostWr, hostWrite_readOnly _ v hreg, show reg ≠ 0 by omega]
  · rw [step_idle hidle hscript]
    simp only [idleMove, hostWrm, if_pos hrange]
    rcases hname with rfl | rfl <;> rfl

/-- Settles O48: each flag is one bit of the word, and the word has no others. -/
theorem statusLayout : Obligations.StatusLayout := by
  intro s
  change _ = s.busy ∧ _
  unfold State.statusWord
  generalize s.busy = busy, s.done = done, s.err = err, s.upvalid = upvalid
  revert busy done err upvalid
  decide

/-- Every error code fits in bits [3:0] (R35, R196). -/
theorem errcodeWord_high (s : State) : s.errcodeWord.extractLsb' 4 28 = 0 := by
  unfold State.errcodeWord
  cases s.errcode with
  | none => rfl
  | some e => cases e <;> rfl

/-- Settles O49: the codes of R196, and `ERRCODE` cleared at reset and at the start of a command. -/
theorem errorCodes : Obligations.ErrorCodes := by
  refine ⟨fun s => ?_, fun s => ⟨errcodeWord_high s, rfl⟩, rfl⟩
  unfold State.errcodeWord
  cases s.errcode with
  | none => rfl
  | some e => cases e <;> rfl

/-- Settles O50: every field of the reset state. -/
theorem resetValues : Obligations.ResetValues := by
  have hbits : ∀ name a q, (State.reset.space name).readBit a q = none := by
    intro name a q
    cases name <;> simp [State.space, State.reset, Space.readBit, Space.undef, Memory.unlisted]
  exact ⟨rfl, rfl, rfl, rfl, rfl, rfl, rfl, rfl, ⟨rfl, rfl, rfl⟩, hbits⟩

end Sys2Proof.Machine
end

section
/-! PROOFS. The canonical form of the byte spaces is kept by every step, whatever the parameters and the cursor (R60, R62,
R64). -/

namespace Sys2Proof.Machine

theorem State.canonical_iff (s : State) : s.Canonical ↔ ∀ name, (s.space name).wf = true := by
  constructor
  · rintro ⟨hch, hfni, hpli, hfno, hplo⟩ name
    cases name <;> assumption
  · exact fun h => ⟨h .ch, h .fni, h .pli, h .fno, h .plo⟩

/-- What each `WriteBit` of PACK keeps, PACK keeps (R139): `P` of the channel memory, over the bits written. -/
theorem packBits_induction {P : Space → Prop} {fni pli : Space} {d n p : Word} {count j : Nat} {ch ch' : Space}
    (h : packBits fni pli d n p count j ch = some ch') (hch : P ch)
    (hwrite : ∀ (sp : Space) (i : Nat) (v : Bool), j ≤ i → i < j + count → P sp →
      P (sp.writeBit (place i d.toNat).1 (place i d.toNat).2 v)) : P ch' := by
  induction count generalizing j ch with
  | zero => cases h; exact hch
  | succ count ih =>
    simp only [packBits] at h
    split at h
    · exact ih h (hwrite _ _ _ (Nat.le_refl j) (by omega) hch) fun sp i v hlo hhi =>
        hwrite sp i v (by omega) (by omega)
    · cases h

theorem packBits_wf {fni pli : Space} {d n p : Word} {count j : Nat} {ch ch' : Space} (hch : ch.wf = true)
    (h : packBits fni pli d n p count j ch = some ch') : ch'.wf = true :=
  packBits_induction (P := fun sp => sp.wf = true) h hch fun _ _ v _ _ hsp => Space.writeBit_wf _ _ v hsp

theorem canonical_exec {i : Instr} {s t : State} (hs : s.Canonical) (h : ExecResult s i t) : t.Canonical := by
  obtain ⟨hch, hfni, hpli, hfno, hplo⟩ := hs
  cases h with
  | packOverflow d => exact ⟨Space.spoil_wf _ d hch, hfni, hpli, hfno, hplo⟩
  | packDone d n p ch _ _ _ _ hpack => exact ⟨packBits_wf hch hpack, hfni, hpli, hfno, hplo⟩
  | unpackFailed => exact ⟨hch, hfni, hpli, Space.undef_wf, Space.undef_wf⟩
  | unpackDone _ _ name _ payload =>
    exact ⟨hch, hfni, hpli, Space.writeBytes_wf 0 name Space.undef_wf, Space.writeBytes_wf 0 payload Space.undef_wf⟩
  | capFailed | capDone | packFailed => exact ⟨hch, hfni, hpli, hfno, hplo⟩

theorem canonical_start {s t : State} (hs : s.Canonical) (h : StartResult s t) : t.Canonical := by
  obtain ⟨hch, hfni, hpli, hfno, hplo⟩ := hs
  cases h with
  | unpack => exact ⟨hch, hfni, hpli, Space.undef_wf, Space.undef_wf⟩
  | cap | packFailed | pack => exact ⟨hch, hfni, hpli, hfno, hplo⟩

/-- `ReadStep` writes at most one byte, of one output buffer (R154, R157). -/
theorem State.readNext_canonical {s : State} (c : Cursor) (v : Bool) (hs : s.Canonical) : (s.readNext c v).Canonical := by
  obtain ⟨hch, hfni, hpli, hfno, hplo⟩ := hs
  have hfno' : (s.readNext c v).fno.wf = true := by
    rw [s.readNext_fno]
    split_ifs
    · exact Space.writeByte_wf _ _ hfno
    · exact hfno
  have hplo' : (s.readNext c v).plo.wf = true := by
    rw [s.readNext_plo]
    split_ifs
    · exact Space.writeByte_wf _ _ hplo
    · exact hplo
  rw [s.readNext_eq]
  exact ⟨hch, hfni, hpli, hfno', hplo'⟩

/-- `Transitions` writes no byte: it keeps the output buffers or drops them (R160, R167). -/
theorem transitions_canonical {s : State} (fuel : Nat) (c : Cursor) (hs : s.Canonical) :
    (transitions fuel s c).Canonical := by
  obtain ⟨hch, hfni, hpli, hfno, hplo⟩ := hs
  rcases transitions_cases fuel s c with ⟨c', heq⟩ | ⟨e, -, heq⟩ | ⟨c', -, heq⟩ <;> rw [heq]
  · exact ⟨hch, hfni, hpli, hfno, hplo⟩
  · exact ⟨hch, hfni, hpli, Space.undef_wf, Space.undef_wf⟩
  · exact ⟨hch, hfni, hpli, hfno, hplo⟩

theorem canonical_engine {s t : State} {c : Cursor} (hs : s.Canonical) (h : EngineResult s c t) : t.Canonical := by
  obtain ⟨hch, hfni, hpli, hfno, hplo⟩ := hs
  cases h with
  | packOverflow => exact ⟨Space.spoil_wf _ _ hch, hfni, hpli, hfno, hplo⟩
  | packWrote v => exact ⟨Space.writeBit_wf _ _ v hch, hfni, hpli, hfno, hplo⟩
  | unpackExhausted => exact ⟨hch, hfni, hpli, Space.undef_wf, Space.undef_wf⟩
  | unpackTurn v => exact transitions_canonical 7 _ (State.readNext_canonical c v ⟨hch, hfni, hpli, hfno, hplo⟩)
  | capFailed | capDone | packDone | packPassed => exact ⟨hch, hfni, hpli, hfno, hplo⟩

theorem canonical_kept : KeptByMoves State.Canonical where
  hostSide _ _ _ hs := hs
  hostWrite hs _ h := by
    rcases State.hostWrite_some h with rfl | rfl | rfl | rfl | rfl <;> exact hs
  hostWriteBytes {s name a bs} hs _ _ :=
    (State.canonical_iff _).2 fun target => s.hostWriteBytes_wf name target a bs (s.canonical_iff.1 hs target)
  hardReset {s} _ := s.hardReset.canonical_iff.2 State.reset_space_wf
  illegalCommand hs _ := hs
  exec hs _ h := canonical_exec hs h
  start hs _ h := canonical_start hs h
  engine hs _ h := canonical_engine hs h

/-- Settles O55: every write to a space keeps its canonical form, so every move does. -/
theorem stepKeepsCanonical : Obligations.StepKeepsCanonical :=
  fun _ _ hs h => canonical_kept.step hs h

end Sys2Proof.Machine
end

section
/-! PROOFS. Single bits of a byte space (R21, R62 to R64), and the bit order of bytes and of the payload length (R12, R67,
R69). -/

namespace Sys2Proof.Machine

/-! ## The bits of a space after a write and after an overflow -/

theorem Memory.read_write {m : Memory} (h : m.wf = true) (a b : Nat) (v : Byte) :
    (m.write a v).read b = if b = a then v else m.read b := by
  split_ifs with hb
  · rw [hb, Memory.read_write_same a v h]
  · exact Memory.read_write_other v hb

/-- `WriteBit` as every bit of the space sees it (R64). -/
theorem Space.readBit_writeBit {sp : Space} (h : sp.wf = true) (a p b : Nat) {q : Nat} (v : Bool) (hq : q < 8) :
    (sp.writeBit a p v).readBit b q = if b = a ∧ q = p then some v else sp.readBit b q := by
  obtain ⟨hbits, hknown, -⟩ := Space.wf_iff.1 h
  have hbits' := Memory.read_write hbits a b (setBit (sp.bits.read a) p v)
  have hknown' := Memory.read_write hknown a b (setBit (sp.known.read a) p true)
  simp only [Space.readBit, Space.writeBit, hbits', hknown']
  by_cases hb : b = a
  · subst hb
    simp only [if_true, setBit_getLsbD _ _ _ _ hq, true_and]
    by_cases hqp : q = p <;> simp [hqp]
  · simp [hb]

/-- Settles O38: the bit written, and every other bit. -/
theorem writeBitLaw : Obligations.WriteBitLaw := by
  refine fun sp a p v h hp => ⟨?_, fun b q hq hne => ?_⟩
  · rw [Space.readBit_writeBit h a p a v hp, if_pos ⟨rfl, rfl⟩]
  · rw [Space.readBit_writeBit h a p b v hq, if_neg fun hbq => hne.elim (· hbq.1) (· hbq.2)]

theorem setBit_of_getLsbD {b : Byte} {p : Nat} {v : Bool} (h : b.getLsbD p = v) : setBit b p v = b := by
  apply BitVec.eq_of_getLsbD_eq
  intro q hq
  rw [setBit_getLsbD _ _ _ _ hq]
  split_ifs with hqp
  · rw [hqp, h]
  · rfl

/-- To write a byte that stands there already changes nothing, the canonical form being unique (R62). -/
theorem Memory.write_read {m : Memory} (h : m.wf = true) (a : Nat) : m.write a (m.read a) = m := by
  refine Memory.ext_wf (Memory.write_wf a _ h) h fun x => ?_
  rw [Memory.read_write h]
  split_ifs with hx
  · rw [hx]
  · rfl

/-- To write the value a bit holds already changes nothing (R64). -/
theorem Space.writeBit_of_readBit {sp : Space} (h : sp.wf = true) {a p : Nat} {v : Bool}
    (hbit : sp.readBit a p = some v) : sp.writeBit a p v = sp := by
  obtain ⟨hbits, hknown, -⟩ := Space.wf_iff.1 h
  unfold Space.readBit at hbit
  split_ifs at hbit with hdef
  rw [Space.writeBit, setBit_of_getLsbD (Option.some.inj hbit), setBit_of_getLsbD hdef,
    Memory.write_read hbits, Memory.write_read hknown]

/-- The bits that survive `CapacityExceeded`: those outside the stream, and those at or above the active depth (R137). -/
theorem survivors_getLsbD (len d i : Nat) {q : Nat} (hq : q < 8) :
    (survivors len d i).getLsbD q = decide (len ≤ i ∨ (if i < 112 then 1 else d) ≤ q) := by
  have hones : ∀ k, (0xFF#8 <<< k).getLsbD q = decide (k ≤ q) := by
    intro k
    have hff : (0xFF#8).getLsbD (q - k) = true := by
      rw [show 0xFF#8 = BitVec.allOnes 8 from rfl, BitVec.getLsbD_allOnes]
      exact decide_eq_true (by omega)
    rw [BitVec.getLsbD_shiftLeft, hff]
    rcases Nat.lt_or_ge q k with hk | hk <;> simp [hq, hk]
  have hall : (0xFF#8).getLsbD q = true := (hones 0).trans (decide_eq_true (Nat.zero_le q))
  unfold survivors Config.preambleChannels
  by_cases hlen : len ≤ i
  · simp only [hlen, if_true, hall, true_or, decide_true]
  · by_cases hpre : i < 112 <;> simp only [hlen, hpre, if_true, if_false, hones, false_or]

/-- `CapacityExceeded` as every bit of the channel memory sees it (R137). -/
theorem Space.readBit_spoil {sp : Space} (h : sp.wf = true) (len d i : Nat) {q : Nat} (hq : q < 8) :
    (sp.spoil len d).readBit i q =
      if len ≤ i ∨ (if i < 112 then 1 else d) ≤ q then sp.readBit i q else none := by
  obtain ⟨hbits, hknown, -⟩ := Space.wf_iff.1 h
  simp only [Space.readBit, Space.spoil, Memory.read_mask _ hbits, Memory.read_mask _ hknown, BitVec.getLsbD_and,
    survivors_getLsbD len d i hq]
  by_cases hkeep : len ≤ i ∨ (if i < 112 then 1 else d) ≤ q <;> simp [hkeep]

/-! ## Bytes and their bits -/

/-- The bits gathered stand in the byte in the order they were read, from bit 0 on (R67). -/
theorem gatherBits_bit {ch : Space} {d j n t : Nat} {b : Byte} (hn : n ≤ 8) (h : gatherBits ch d j n = some b)
    (ht : t < n) : streamBit ch d (j + t) = some (b.getLsbD t) := by
  induction n generalizing b with
  | zero => omega
  | succ n ih =>
    simp only [gatherBits] at h
    split at h
    · rename_i acc v hacc hv
      cases h
      rw [setBit_getLsbD _ _ _ _ (by omega)]
      split_ifs with htn
      · rw [htn, hv]
      · exact ih (by omega) hacc (by omega)
    · cases h

/-- Settles O37: a serialized byte taken apart, and a byte of the stream put together. -/
theorem byteFromBits : Obligations.ByteFromBits := by
  refine ⟨fun fni pli d n p j b h => ?_, fun ch d k b h t ht => gatherBits_bit (Nat.le_refl 8) h ht⟩
  rw [serBit, h]
  rfl

/-- Byte `k` of a word, as a number (R12). -/
theorem extractByte_toNat (v : Word) (k : Nat) : (v.extractLsb' k 8).toNat = v.toNat / 2 ^ k % 256 := by
  rw [BitVec.extractLsb'_toNat, Nat.shiftRight_eq_div_pow]

/-- `UnLE32` weighs its four bytes by the powers of 256 (R12); the sum never wraps. -/
theorem unLe32_toNat (b0 b1 b2 b3 : Byte) :
    (unLe32 b0 b1 b2 b3).toNat = b0.toNat + 256 * b1.toNat + 65536 * b2.toNat + 16777216 * b3.toNat := by
  rw [unLe32, BitVec.toNat_ofNat]
  omega

/-- The four bytes of a word, weighted, give the word (R12). -/
theorem toNat_eq_bytes (v : Word) :
    v.toNat = (v.extractLsb' 0 8).toNat + 256 * (v.extractLsb' 8 8).toNat + 65536 * (v.extractLsb' 16 8).toNat +
      16777216 * (v.extractLsb' 24 8).toNat := by
  simp only [extractByte_toNat]
  omega

/-- Settles O34: both directions through the weighted sum. -/
theorem lengthBytes : Obligations.LengthBytes := by
  refine ⟨fun v => ⟨_, _, _, _, rfl, ?_, toNat_eq_bytes v⟩, fun b0 b1 b2 b3 => ?_⟩
  · apply BitVec.eq_of_toNat_eq
    rw [unLe32_toNat]
    exact (toNat_eq_bytes v).symm
  · have hbyte : ∀ (b : Byte) (k : Nat), (unLe32 b0 b1 b2 b3).toNat / 2 ^ k % 256 = b.toNat →
        (unLe32 b0 b1 b2 b3).extractLsb' k 8 = b := fun b k hb =>
      BitVec.eq_of_toNat_eq ((extractByte_toNat _ k).trans hb)
    rw [unLe32_toNat] at hbyte
    rw [le32, hbyte b0 0 (by omega), hbyte b1 8 (by omega), hbyte b2 16 (by omega), hbyte b3 24 (by omega)]

end Sys2Proof.Machine
end

section
/-! PROOFS. The places of the serialized bits (R76, R77), and what PACK does to each bit of the channel memory (R64, R74,
R139). -/

namespace Sys2Proof.Machine

/-! ## The order of the places -/

theorem place_of_lt {j : Nat} (d : Nat) (hj : j < 112) : place j d = (j, 0) := if_pos hj

theorem place_of_ge {j : Nat} (d : Nat) (hj : 112 ≤ j) : place j d = (112 + (j - 112) / d, (j - 112) % d) :=
  if_neg (Nat.not_lt.2 hj)

/-- A later bit stands in a later channel, or higher in the same channel (R76). -/
theorem place_lt_place {j j' : Nat} (d : Nat) (hlt : j < j') :
    (place j d).1 < (place j' d).1 ∨ ((place j d).1 = (place j' d).1 ∧ (place j d).2 < (place j' d).2) := by
  rcases Nat.lt_or_ge j' 112 with hj' | hj'
  · rw [place_of_lt d hj', place_of_lt d (hlt.trans hj')]
    exact .inl hlt
  rw [place_of_ge d hj']
  rcases Nat.lt_or_ge j 112 with hj | hj
  · rw [place_of_lt d hj]
    exact .inl (Nat.lt_add_right _ hj)
  · rw [place_of_ge d hj]
    have hdiv : (j - 112) / d ≤ (j' - 112) / d := Nat.div_le_div_right (by omega)
    rcases Nat.eq_or_lt_of_le hdiv with heq | hlt'
    · have hj_eq := Nat.div_add_mod (j - 112) d
      have hj'_eq := Nat.div_add_mod (j' - 112) d
      rw [← heq] at hj'_eq
      exact .inr ⟨by rw [heq], by dsimp only; omega⟩
    · exact .inl (Nat.add_lt_add_left hlt' 112)

/-- No two bits share a place (R76). -/
theorem place_injective {d j j' : Nat} (h : place j d = place j' d) : j = j' := by
  rcases Nat.lt_trichotomy j j' with hlt | heq | hgt
  · have := place_lt_place d hlt
    rw [h] at this
    omega
  · exact heq
  · have := place_lt_place d hgt
    rw [h] at this
    omega

/-- Settles O35: the two cases of R76, and the order from which injectivity follows. -/
theorem placeOrdered : Obligations.PlaceOrdered :=
  fun d _ _ => ⟨place_of_lt d, place_of_ge d, fun _ => place_lt_place d, fun _ => place_injective⟩

/-- Settles O36: each bit lies below `Used`, and the last one in the last channel that `Used` counts. -/
theorem usedExact : Obligations.UsedExact := by
  refine fun d r hd hr => ⟨fun j hj => place_lt_used hd hj, ?_⟩
  rw [place_of_ge d (by omega), show 112 + 8 * r - 1 - 112 = 8 * r - 1 by omega]
  have hceil : ceilDiv (8 * r) d = (8 * r - 1) / d + 1 := by
    rw [ceilDiv, ← Nat.add_div_right _ hd, show 8 * r + d - 1 = 8 * r - 1 + d by omega]
  rw [used, hceil]
  rfl

/-- Every place lies below the active depth of its channel (R44, R76). -/
theorem place_below_depth {d : Nat} (j : Nat) (hd : 1 ≤ d) :
    (place j d).2 < if (place j d).1 < 112 then 1 else d := by
  rcases Nat.lt_or_ge j 112 with hj | hj
  · rw [place_of_lt d hj, if_pos hj]
    exact Nat.one_pos
  · rw [place_of_ge d hj, if_neg (by simp)]
    exact Nat.mod_lt _ hd

/-- At a legal depth every place is one of the eight bits of its channel (R43, R132). -/
theorem place_bit_lt {d : Nat} (j : Nat) (hd : legalDepth d) : (place j d).2 < 8 := by
  have hbelow := place_below_depth j hd.1
  have hle := hd.2
  split_ifs at hbelow <;> omega

/-! ## The channel memory after PACK -/

section
variable {fni pli : Space} {d n p : Word} {count j : Nat} {ch ch' : Space} (hch : ch.wf = true)
  (h : packBits fni pli d n p count j ch = some ch')
include hch h

/-- PACK leaves alone every bit that is not the place of a bit it writes (R139). -/
theorem packBits_readBit_other {a q : Nat} (hq : q < 8)
    (hne : ∀ i, j ≤ i → i < j + count → place i d.toNat ≠ (a, q)) : ch'.readBit a q = ch.readBit a q := by
  refine (packBits_induction (P := fun sp => sp.wf = true ∧ sp.readBit a q = ch.readBit a q) h ⟨hch, rfl⟩
    fun sp i v hlo hhi hsp => ⟨Space.writeBit_wf _ _ v hsp.1, ?_⟩).2
  rw [Space.readBit_writeBit hsp.1 _ _ _ _ hq, if_neg, hsp.2]
  rintro ⟨rfl, rfl⟩
  exact hne i hlo hhi rfl

/-- PACK leaves every bit of its range at its place (R139). -/
theorem packBits_readBit_place (hd : legalDepth d.toNat) {i : Nat} (hlo : j ≤ i) (hhi : i < j + count) :
    ∃ v, serBit fni pli d n p i = some v ∧ ch'.readBit (place i d.toNat).1 (place i d.toNat).2 = some v := by
  have hpos := place_bit_lt i hd
  induction count generalizing j ch with
  | zero => omega
  | succ count ih =>
    simp only [packBits] at h
    split at h
    · rename_i v hv
      have hch' := Space.writeBit_wf (place j d.toNat).1 (place j d.toNat).2 v hch
      rcases Nat.eq_or_lt_of_le hlo with rfl | hlt
      · refine ⟨v, hv, ?_⟩
        rw [packBits_readBit_other (a := (place j d.toNat).1) hch' h hpos
          fun k hk _ hplace => absurd (place_injective hplace) (by omega),
          Space.readBit_writeBit hch _ _ _ _ hpos, if_pos ⟨rfl, rfl⟩]
      · exact ih hch' h hlt (by omega)
    · cases h

end

/-- A PACK over a stream that holds the sequence already writes what stands there (R74). -/
theorem packBits_of_packed {fni pli : Space} {d n p : Word} {count j : Nat} {ch : Space} (hch : ch.wf = true)
    (h : ∀ i, j ≤ i → i < j + count → ∃ v, serBit fni pli d n p i = some v ∧
      ch.readBit (place i d.toNat).1 (place i d.toNat).2 = some v) :
    packBits fni pli d n p count j ch = some ch := by
  induction count generalizing j with
  | zero => rfl
  | succ count ih =>
    obtain ⟨v, hv, hread⟩ := h j (Nat.le_refl j) (by omega)
    simp only [packBits, hv, Space.writeBit_of_readBit hch hread]
    exact ih fun i hlo hhi => h i (by omega) (by omega)

theorem exists_packBits {fni pli : Space} {d n p : Word} {count j : Nat} {ch : Space}
    (h : ∀ i, j ≤ i → i < j + count → (serBit fni pli d n p i).isSome = true) :
    ∃ ch', packBits fni pli d n p count j ch = some ch' := by
  induction count generalizing j ch with
  | zero => exact ⟨ch, rfl⟩
  | succ count ih =>
    obtain ⟨v, hv⟩ := Option.isSome_iff_exists.1 (h j (Nat.le_refl j) (by omega))
    simp only [packBits, hv]
    exact ih fun i hlo hhi => h i (by omega) (by omega)

/-- With its input record defined, every byte of the sequence is defined (R93, R229). -/
theorem ser_isSome {s : State} {d n p : Word} {k : Nat} (hbuf : s.BuffersDefined n p)
    (hk : k < totalBytes n.toNat p.toNat) : (ser s.fni s.pli d n p k).isSome = true := by
  obtain ⟨hfni, hpli⟩ := hbuf
  unfold totalBytes at hk
  unfold ser
  split_ifs
  · rfl
  · rfl
  · rfl
  · exact hfni _ (by omega)
  · rfl
  · exact hpli _ (by omega)

/-- With its input record defined, PACK can write the whole sequence (R139). -/
theorem exists_packStream {s : State} {d n p : Word} (hbuf : s.BuffersDefined n p) :
    ∃ ch, packStream s d n p = some ch :=
  exists_packBits fun i _ hhi => by
    rw [serBit, Option.isSome_map]
    exact ser_isSome hbuf (by omega)

/-- Packing over the stream just packed gives the same stream (R74). -/
theorem packStream_packed {s : State} {d n p : Word} {ch : Space} (hd : legalDepth d.toNat) (hch : s.ch.wf = true)
    (h : packStream s d n p = some ch) : packStream { s with ch := ch } d n p = some ch :=
  packBits_of_packed (packBits_wf hch h) fun _ hlo hhi => packBits_readBit_place hch h hd hlo hhi

/-- A PACK that fits, of a defined input record, ends with its sequence in the stream (R139). -/
theorem exec_pack_fits {s : State} {d n p np : Word} {ch : Space} (hs : s.PackLegal d n p np) (hfits : Fits d n p np)
    (h : packStream s d n p = some ch) : exec .pack s = .next { s with ch := ch }.complete := by
  have hfits' : packFits (streamLen np) d n p = true := decide_eq_true hfits
  have h' : packStream s.started d n p = some ch := h
  rw [exec_pack_legal hs, packWrite, if_pos hfits', h']
  rfl

/-- Settles O19: the second PACK writes the same stream, and the flags stand as the first left them. -/
theorem packIdempotent : Obligations.PackIdempotent := by
  intro s d n p np hs hbuf hfits hch
  obtain ⟨ch, hpack⟩ := exists_packStream (d := d) hbuf
  have hs' : { s with ch := ch }.complete.PackLegal d n p np :=
    ⟨⟨⟨rfl, hs.depth, hs.fnlen, hs.numpix, hs.inRange⟩, hs.plen⟩, hs.legal, hs.short⟩
  exact ⟨_, exec_pack_fits hs hfits hpack, exec_pack_fits hs' hfits (packStream_packed (s := s) hs.legal hch hpack)⟩

/-! ## The bits PACK never touches -/

/-- A PACK that fits writes inside the stream and below the active depth only (R64, R139). -/
theorem packStream_readBit_high {s : State} {d n p : Word} {len i q : Nat} {ch : Space} (hd : legalDepth d.toNat)
    (hch : s.ch.wf = true) (hfits : used d.toNat (bodyBytes n.toNat p.toNat) ≤ len)
    (h : packStream s d n p = some ch) (hq : q < 8) (hkeep : len ≤ i ∨ (if i < 112 then 1 else d.toNat) ≤ q) :
    ch.readBit i q = s.ch.readBit i q := by
  refine packBits_readBit_other hch h hq fun j _ hhi hplace => ?_
  have hchannel : (place j d.toNat).1 < used d.toNat (bodyBytes n.toNat p.toNat) :=
    place_lt_used hd.1 (by simp only [totalBytes, bodyBytes] at hhi ⊢; omega)
  have hdepth := place_below_depth j hd.1
  rw [hplace] at hchannel hdepth
  dsimp only at hchannel hdepth
  omega

/-- Settles O16: PACK's checks touch no bit, an overflow spoils the low bits only, and a success writes the low bits only. -/
theorem packLowBitsOnly : Obligations.PackLowBitsOnly := by
  intro s t d n p np hs hch hexec i q hq hregion
  have hkeep : streamLen np ≤ i ∨ (if i < 112 then 1 else d.toNat) ≤ q := by
    split_ifs <;> omega
  obtain ⟨-, -, hbody⟩ := exec_next hexec
  rcases hbody with ⟨hcap, -⟩ | ⟨-, hpack⟩ | ⟨hunpack, -⟩
  · cases hcap
  · rcases packChecked_next hpack with ⟨e, -, rfl⟩ | ⟨d', n', p', np', hd', -, -, hnp', hd, -, hwrite⟩
    · rfl
    · rw [State.started_pkDepth, hs.depth] at hd'
      rw [State.started_numpix, hs.numpix] at hnp'
      cases hd'
      cases hnp'
      rcases packWrite_next hwrite with ⟨ch, hfits, hstream, rfl⟩ | ⟨-, rfl⟩
      · exact packStream_readBit_high hd hch (of_decide_eq_true hfits) hstream hq hkeep
      · exact (Space.readBit_spoil hch _ _ i hq).trans (if_pos hkeep)
  · cases hunpack

end Sys2Proof.Machine
end

section
/-! PROOFS. The command words (R100 to R102): the decoder by the two fields of a word, and the step a reserved word takes. -/

namespace Sys2Proof.Machine

/-! ## The decoder -/

/-- The encoder's words decode to their commands (R101). -/
theorem decode_encode (i : Instr) : decode (encode i) = .ok i := by
  cases i with
  | cap => exact decode_cap_word
  | pack => exact decode_pack_word
  | unpack => exact decode_unpack_word

/-- A command's word has no reserved bit set and an `OP` of 1 to 3 (R100, R101). -/
theorem encode_fields (i : Instr) :
    reservedField (encode i) = 0 ∧ 1 ≤ opField (encode i) ∧ opField (encode i) ≤ 3 := by
  cases i <;> decide

/-- The two fields of a command word make up all of it (R100). -/
theorem fields_toNat (w : Word) : 16 * reservedField w + opField w = w.toNat := Nat.div_add_mod w.toNat 16

/-- With no reserved bit set, the field `OP` alone names the word (R100). -/
theorem eq_of_opField {w w' : Word} (hw : reservedField w = 0) (hw' : reservedField w' = 0)
    (hop : opField w = opField w') : w = w' := by
  apply BitVec.eq_of_toNat_eq
  rw [← fields_toNat w, ← fields_toNat w', hw, hw', hop]

/-- Every word is refused for a reserved bit, is the word of a command, or is refused for a reserved `OP` (R100 to R102). -/
theorem decode_cases (w : Word) :
    (reservedField w ≠ 0 ∧ decode w = .error .reservedBits) ∨
    (∃ i, w = encode i ∧ decode w = .ok i) ∨
    (reservedField w = 0 ∧ (opField w = 0 ∨ 4 ≤ opField w) ∧ decode w = .error .reservedOp) := by
  by_cases hres : reservedField w = 0
  · have hcmd : ∀ i, opField w = opField (encode i) → ∃ i, w = encode i ∧ decode w = .ok i := by
      intro i hop
      have hw : w = encode i := eq_of_opField hres (encode_fields i).1 hop
      exact ⟨i, hw, by rw [hw, decode_encode]⟩
    by_cases h1 : opField w = 1
    · exact .inr (.inl (hcmd .cap h1))
    by_cases h2 : opField w = 2
    · exact .inr (.inl (hcmd .pack h2))
    by_cases h3 : opField w = 3
    · exact .inr (.inl (hcmd .unpack h3))
    exact .inr (.inr ⟨hres, by omega, by simp [decode, hres, h1, h2, h3]⟩)
  · exact .inl ⟨hres, if_pos hres⟩

/-- Settles O1: the words of R101, and no other word reaches a command by `decode_cases`. -/
theorem decodeEncode : Obligations.DecodeEncode := by
  refine ⟨rfl, rfl, rfl, fun w i => ⟨fun h => ?_, fun h => h ▸ decode_encode i⟩⟩
  rcases decode_cases w with ⟨-, herr⟩ | ⟨j, hw, hok⟩ | ⟨-, -, herr⟩
  · cases herr.symm.trans h
  · cases hok.symm.trans h
    exact hw
  · cases herr.symm.trans h

/-- Bits [31:4] of a word are its reserved field (R100). -/
theorem extract_reservedField (w : Word) : (w.extractLsb' 4 28).toNat = reservedField w := by
  rw [BitVec.extractLsb'_toNat, Nat.shiftRight_eq_div_pow]
  exact Nat.mod_eq_of_lt (by omega)

/-- Bits [3:0] of a word are its field `OP` (R100). -/
theorem extract_opField (w : Word) : (w.extractLsb' 0 4).toNat = opField w := BitVec.extractLsb'_toNat ..

/-- Settles O2: the fields of R100 as numbers, and the three cases of the decoder, which exclude each other. -/
theorem reservedWords : Obligations.ReservedWords := by
  intro w
  have hbits : w.extractLsb' 4 28 = 0 ↔ reservedField w = 0 := by
    rw [← extract_reservedField]
    exact BitVec.toNat_inj.symm
  have hop : w.extractLsb' 0 4 = 0 ↔ opField w = 0 := by
    rw [← extract_opField]
    exact BitVec.toNat_inj.symm
  rw [Ne, hbits, hop, extract_opField]
  rcases decode_cases w with ⟨hres, hdec⟩ | ⟨i, rfl, hdec⟩ | ⟨hres, hreserved, hdec⟩
  · simp [hdec, hres]
  · obtain ⟨hres, hmin, hmax⟩ := encode_fields i
    have hop : ¬ (opField (encode i) = 0 ∨ 4 ≤ opField (encode i)) := by omega
    simp [hdec, hres, hop]
  · simp [hdec, hres, hreserved]

/-! ## A reserved word written to `CMD` -/

/-- A word other than 1, 2 and 3 is no command's (R101, R102). -/
theorem decode_reserved {w : Word} (h1 : w ≠ 1) (h2 : w ≠ 2) (h3 : w ≠ 3) : ∃ e, decode w = .error e := by
  rcases decode_cases w with ⟨-, herr⟩ | ⟨i, hw, -⟩ | ⟨-, -, herr⟩
  · exact ⟨_, herr⟩
  · cases i with
    | cap => exact absurd hw h1
    | pack => exact absurd hw h2
    | unpack => exact absurd hw h3
  · exact ⟨_, herr⟩

/-- A reserved word on an idle engine sets the flags of `IllegalCommand` and reads nothing (R102, R203). -/
theorem writeCmd_reserved {s : State} {w : Word} {e : DecodeError} (hidle : s.cursor = none)
    (h : decode w = .error e) : writeCmd w s = .next (s.ended (some .illegalCommand)) := by
  simp only [writeCmd, h, (State.busy_false_iff s).2 hidle]
  rfl

/-- Settles O4: the move is a write of `CMD`, and its word decodes to no command. -/
theorem illegalCommand : Obligations.IllegalCommand := by
  intro s w rest hidle hscript h1 h2 h3
  obtain ⟨e, he⟩ := decode_reserved h1 h2 h3
  rw [step_idle hidle hscript]
  exact writeCmd_reserved hidle he

end Sys2Proof.Machine
end

section
/-! PROOFS. The serialized sequence as one list of bytes (R12, R69, R92, R93). -/

namespace Sys2Proof.Machine

/-- The bytes before the filename: magic, depth and filename length (R92). -/
def header (d n : Word) : List Byte := Config.magic ++ [d.setWidth 8] ++ [n.setWidth 8]

theorem header_length (d n : Word) : (header d n).length = 15 := rfl

/-- The first 15 bytes of the sequence, none of them from a buffer (R93). -/
theorem ser_header (fni pli : Space) (d n p : Word) {k : Nat} (hk : k < 15) :
    ser fni pli d n p k = (header d n)[k]? := by
  interval_cases k <;> rfl

theorem le32_length (v : Word) : (le32 v).length = 4 := rfl

/-- `LE32`, byte by byte (R12). -/
theorem le32_getElem? (v : Word) {i : Nat} (hi : i < 4) : (le32 v)[i]? = some ((v >>> (8 * i)).setWidth 8) := by
  interval_cases i <;> rfl

/-- Bytes 15 + N to 18 + N of the sequence are the payload length (R93). -/
theorem ser_payloadLength (fni pli : Space) (d n p : Word) {i : Nat} (hi : i < 4) :
    ser fni pli d n p (15 + n.toNat + i) = (le32 p)[i]? := by
  unfold ser
  rw [if_neg (by omega), if_neg (by omega), if_neg (by omega), if_neg (by omega), if_pos (by omega),
    show 15 + n.toNat + i - 15 - n.toNat = i by omega, le32_getElem? p hi]

/-- Settles O33: each part of the list stands at its part of the offsets. -/
theorem serializedLayout : Obligations.SerializedLayout := by
  intro fni pli d n p name payload _ _ hname hpayload hfni hpli
  have hlist : Config.magic ++ [d.setWidth 8] ++ [n.setWidth 8] ++ name ++ le32 p ++ payload =
      header d n ++ (name ++ (le32 p ++ payload)) := by simp only [header, List.append_assoc]
  have hpre := header_length d n
  have hle32 := le32_length p
  rw [hlist]
  refine ⟨by simp only [List.length_append, totalBytes]; omega, fun k hk => ?_⟩
  unfold totalBytes at hk
  rcases Nat.lt_or_ge k 15 with hlt | hge
  · rw [List.getElem?_append_left (by omega), ser_header fni pli d n p hlt]
  obtain ⟨i, rfl⟩ := Nat.exists_eq_add_of_le hge
  rw [List.getElem?_append_right (by omega), hpre, Nat.add_sub_cancel_left]
  rcases Nat.lt_or_ge i n.toNat with hlt | hge
  · rw [List.getElem?_append_left (by omega), ser_filename hlt, hfni i hlt]
  obtain ⟨i, rfl⟩ := Nat.exists_eq_add_of_le hge
  rw [List.getElem?_append_right (by omega), hname, Nat.add_sub_cancel_left, ← Nat.add_assoc]
  rcases Nat.lt_or_ge i 4 with hlt | hge
  · rw [List.getElem?_append_left (by omega), ser_payloadLength fni pli d n p hlt]
  obtain ⟨i, rfl⟩ := Nat.exists_eq_add_of_le hge
  rw [List.getElem?_append_right (by omega), hle32, Nat.add_sub_cancel_left,
    show 15 + n.toNat + (4 + i) = 19 + n.toNat + i by omega, ser_payload, hpli i (by omega)]

end Sys2Proof.Machine
end

section
/-! PROOFS. The capacity formula (R121): what its floor division says of `Used` (R77, R124), its range (R125) and its growth with
the depth (R126). -/

namespace Sys2Proof.Machine

/-- The floor division of R121: a length is within the capacity exactly when eight times the body bytes are within the product. -/
theorem le_capacityBytes_iff (np d n : Nat) (k : Int) :
    k ≤ capacityBytes np d n ↔ 8 * (5 + (n : Int) + k) ≤ (4 * (np : Int) - 112) * d := by
  unfold capacityBytes
  rw [Int.fdiv_eq_ediv_of_nonneg _ (by decide)]
  omega

/-- A body of at least one byte fits when its bits do (R77): a stream of 112 channels or fewer has no room for it. -/
theorem used_le_iff {d r : Nat} (len : Nat) (hd : 1 ≤ d) (hr : 1 ≤ r) :
    used d r ≤ len ↔ 8 * (r : Int) ≤ ((len : Int) - 112) * d := by
  have hceil : ceilDiv (8 * r) d ≤ len - 112 ↔ 8 * r ≤ d * (len - 112) := by
    rw [ceilDiv, ← Nat.ceilDiv_eq_add_pred_div]
    exact ceilDiv_le_iff_le_mul hd
  unfold used Config.preambleChannels
  rcases Nat.le_total 112 len with hlen | hlen
  · have hcast : ((len : Int) - 112) * d = ((d * (len - 112) : Nat) : Int) := by
      push_cast [hlen]
      ring
    omega
  · have hneg : ((len : Int) - 112) * d ≤ 0 := Int.mul_nonpos_of_nonpos_of_nonneg (by omega) (by omega)
    rw [Nat.sub_eq_zero_of_le hlen] at hceil
    omega

/-- R124: the capacity formula is exact, a payload fits if and only if its length is within the capacity. -/
theorem fits_iff_le_capacityBytes {d : Nat} (np : Word) (n p : Nat) (hd : 1 ≤ d) :
    used d (bodyBytes n p) ≤ streamLen np ↔ (p : Int) ≤ capacityBytes np.toNat d n := by
  rw [le_capacityBytes_iff, used_le_iff _ hd (by unfold bodyBytes; omega)]
  unfold bodyBytes streamLen Config.lanes
  push_cast
  rfl

/-- The product of R125, at the least and the largest number of pixels and at the largest depth. -/
theorem capProduct_bounds {np d : Nat} (hnp : np ≤ 2 ^ 29 - 1) (hd : legalDepth d) :
    -112 * 8 ≤ (4 * (np : Int) - 112) * d ∧ (4 * (np : Int) - 112) * d ≤ (2 ^ 31 - 116) * 8 := by
  obtain ⟨-, hd8⟩ := hd
  constructor
  · calc (-112 * 8 : Int) ≤ -112 * d := by omega
      _ ≤ (4 * (np : Int) - 112) * d := Int.mul_le_mul_of_nonneg_right (by omega) (by omega)
  · calc (4 * (np : Int) - 112) * d ≤ (2 ^ 31 - 116) * d := Int.mul_le_mul_of_nonneg_right (by omega) (by omega)
      _ ≤ (2 ^ 31 - 116) * 8 := by omega

theorem capacityBytes_bounds {np d n : Nat} (hnp : np ≤ 2 ^ 29 - 1) (hd : legalDepth d) (hn : n ≤ 255) :
    -372 ≤ capacityBytes np d n ∧ capacityBytes np d n ≤ 2 ^ 31 - 121 := by
  obtain ⟨hlo, hhi⟩ := capProduct_bounds hnp hd
  refine ⟨(le_capacityBytes_iff ..).2 (by omega), Int.not_lt.1 fun hover => ?_⟩
  have := (le_capacityBytes_iff np d n (2 ^ 31 - 120)).1 (by omega)
  omega

/-- R125: `CAPRES` read as a signed number is the capacity. -/
theorem toInt_ofInt_capacityBytes {np d n : Nat} (hnp : np ≤ 2 ^ 29 - 1) (hd : legalDepth d) (hn : n ≤ 255) :
    (BitVec.ofInt 32 (capacityBytes np d n)).toInt = capacityBytes np d n := by
  obtain ⟨hlo, hhi⟩ := capacityBytes_bounds hnp hd hn
  exact BitVec.toInt_ofInt_eq_self (by decide) (by omega) (by omega)

/-- Settles O8: the bounds of the product give those of the capacity, and these the signed word. -/
theorem capRange : Obligations.CapRange := by
  intro np d n hnp hd hn
  obtain ⟨hlo, hhi⟩ := capacityBytes_bounds hnp hd hn
  obtain ⟨hplo, hphi⟩ := capProduct_bounds hnp hd
  exact ⟨hlo, hhi, toInt_ofInt_capacityBytes hnp hd hn, by omega, by omega⟩

/-- Settles O9: from 28 pixels on the first factor is not negative, so the product grows with the depth. -/
theorem capMonotone : Obligations.CapMonotone := by
  intro np d d' n hnp hle
  rw [le_capacityBytes_iff]
  calc 8 * (5 + (n : Int) + capacityBytes np d n) ≤ (4 * (np : Int) - 112) * d :=
        (le_capacityBytes_iff ..).1 (Int.le_refl _)
    _ ≤ (4 * (np : Int) - 112) * d' := Int.mul_le_mul_of_nonneg_left (by omega) (by omega)

/-- A PACK that passes its checks and does not fit overflows the stream, whatever its buffers hold (R137). -/
theorem exec_pack_overflow {s : State} {d n p np : Word} (hs : s.PackLegal d n p np) (hover : ¬ Fits d n p np) :
    exec .pack s = .next (s.packOverflow (streamLen np) d.toNat) := by
  have hover' : ¬ packFits (streamLen np) d n p = true := fun h => hover (of_decide_eq_true h)
  rw [exec_pack_legal hs, packWrite, if_neg hover']
  rfl

/-- Settles O15: PACK's two endings, with and without room, and the capacity formula for the room. -/
theorem capacityExactness : Obligations.CapacityExactness := by
  intro s d n p np hs hbuf
  have hexact := fits_iff_le_capacityBytes np n.toNat p.toNat hs.legal.1
  by_cases hfits : Fits d n p np
  · obtain ⟨ch, hpack⟩ := exists_packStream (d := d) hbuf
    exact ⟨_, exec_pack_fits hs hfits hpack, by simp [hfits], by simp [hfits], hexact⟩
  · exact ⟨_, exec_pack_overflow hs hfits, by simp [hfits], by simp [hfits], hexact⟩

end Sys2Proof.Machine
end

section
/-! PROOFS. The command CAP (R120 to R123, R187, R239): its outcome by its operands, and its one engine step. -/

namespace Sys2Proof.Machine

/-! ## The outcome -/

/-- CAP's operands stand ready: its phase runs at once (R120). -/
theorem State.CapReady.exec_cap {s : State} {d n np : Word} (hs : s.CapReady d n np) :
    exec .cap s = capCompute s.started := by
  refine exec_cap_idle hs.idle ?_
  rw [State.numpixOver_holds hs.numpix]
  simpa using hs.inRange

/-- The first check of R122. -/
theorem capCompute_filenameTooLong {s : State} {n : Word} (hn : s.pkFnlen = Reg.holds n) (hlong : 255 < n.toNat) :
    capCompute s = .next (s.capFail .filenameTooLong) := by
  rw [capCompute, hn, State.withOperand_holds, if_pos (show Config.fnMax < n.toNat from hlong)]

/-- The second check of R122, which is made only if the first has passed. -/
theorem capCompute_invalidBitDepth {s : State} {d n : Word} (hn : s.pkFnlen = Reg.holds n) (hle : n.toNat ≤ 255)
    (hdepth : s.pkDepth = Reg.holds d) (hd : ¬ legalDepth d.toNat) :
    capCompute s = .next (s.capFail .invalidBitDepth) := by
  have hillegal : d.toNat < 1 ∨ 8 < d.toNat := by unfold legalDepth at hd; omega
  rw [capCompute_of_fnlen hn hle, hdepth, State.withOperand_holds, if_pos hillegal]

/-- Both checks passed: the capacity is written to `CAPRES` (R121). -/
theorem exec_cap_legal {s : State} {d n np : Word} (hs : s.CapReady d n np) (hd : legalDepth d.toNat)
    (hn : n.toNat ≤ 255) :
    exec .cap s = .next ({ s with
      capres := Reg.holds (BitVec.ofInt 32 (capacityBytes np.toNat d.toNat n.toNat)) }.ended none) := by
  rw [hs.exec_cap, capCompute_of_depth (s := s.started) hs.fnlen hn hs.depth hd, State.started_numpix, hs.numpix,
    State.withOperand_holds]
  rfl

/-- Settles O5: the phase's result with the formula written out. -/
theorem capResult : Obligations.CapResult :=
  fun _ _ _ _ hs hd hn => exec_cap_legal hs hd hn

/-- Settles O6: the two checks in their order; a failed CAP writes `CAPRES` and the flags only. -/
theorem capOperandErrors : Obligations.CapOperandErrors := by
  refine fun s d n np hs => ⟨fun hlong => ⟨s.capFail .filenameTooLong, ?_, rfl, rfl⟩,
    fun hn hd => ⟨s.capFail .invalidBitDepth, ?_, rfl, rfl⟩⟩ <;> rw [hs.exec_cap]
  · exact capCompute_filenameTooLong hs.fnlen hlong
  · exact capCompute_invalidBitDepth hs.fnlen hn hs.depth hd

/-- R8: no legal block has more than 2^29 - 1 pixels. -/
theorem legal_numpixMax {cfg : Config.Params} (h : cfg.legal = true) : cfg.numpixMax ≤ 2 ^ 29 - 1 :=
  (of_decide_eq_true h).1

/-- Settles O7: the signed word is the capacity (R125), and the capacity says what fits (R124). -/
theorem capSign : Obligations.CapSign := by
  intro s d n np hlegal hs hd hn
  have hword := toInt_ofInt_capacityBytes (hs.inRange.trans (legal_numpixMax hlegal)) hd hn
  have hempty := fits_iff_le_capacityBytes np n.toNat 0 hd.1
  have hone := fits_iff_le_capacityBytes np n.toNat 1 hd.1
  have hpreamble := le_used (bodyBytes n.toNat 0) hd
  refine ⟨_, exec_cap_legal hs hd hn, rfl, ?_⟩
  simp only [State.ended, Reg.holds, hword]
  omega

/-! ## The engine step -/

/-- CAP's phase does not read the cursor, and every ending of it leaves none (R120, R49). -/
theorem capCompute_cursor (s : State) (c : Option Cursor) : capCompute { s with cursor := c } = capCompute s := rfl

/-- One step of a running engine. -/
theorem runEngine_one {s : State} (hrun : s.busy = true) : runEngine 1 s = engineStep s := by
  rw [runEngine, if_pos hrun]
  cases engineStep s <;> rfl

/-- A started CAP ends with its first step (R120, R239). -/
theorem runEngine_cap (s : State) :
    runEngine 1 { s with cursor := some (Cursor.create .capCompute 0 0 0) } = capCompute s :=
  (runEngine_one rfl).trans (capCompute_cursor s _)

/-- Settles O10: the two starts of CAP refuse alike, and the one engine step is CAP's phase. -/
theorem capSteps : Obligations.CapSteps := by
  intro s
  simp only [runCommand, start, exec, execCap, State.begin]
  split_ifs
  · rfl
  · rfl
  · exact runEngine_cap s.started

/-- Settles O54: the operand registers hold 0 (log 1), an illegal depth and a stream of no channels. -/
theorem resetRuns : Obligations.ResetRuns :=
  ⟨⟨State.reset.capFail .invalidBitDepth, rfl, rfl⟩, ⟨State.reset.fail .invalidBitDepth, rfl, rfl⟩,
    ⟨State.reset.dropOutput.fail .truncatedStream, rfl, rfl⟩⟩

end Sys2Proof.Machine
end

section
/-! PROOFS. PACK in its closed form: its two checks (R131, R132), the stream it writes and the stream it spoils (R137,
R139), and what the depth saves (R144). -/

namespace Sys2Proof.Machine

/-! ## The checks -/

/-- The check of R131. -/
theorem packChecked_filenameTooLong {s : State} {n : Word}
    (body : Word → Word → Word → Word → Host.Outcome State Fault Refusal) (hn : s.pkFnlen = Reg.holds n)
    (hlong : 255 < n.toNat) : packChecked s body = .next (s.fail .filenameTooLong) := by
  rw [packChecked, hn, State.withOperand_holds, if_pos (show Config.fnMax < n.toNat from hlong)]

/-- The check of R132, which is made only if that of R131 has passed. -/
theorem packChecked_invalidBitDepth {s : State} {d n : Word}
    (body : Word → Word → Word → Word → Host.Outcome State Fault Refusal) (hn : s.pkFnlen = Reg.holds n)
    (hle : n.toNat ≤ 255) (hdepth : s.pkDepth = Reg.holds d) (hd : ¬ legalDepth d.toNat) :
    packChecked s body = .next (s.fail .invalidBitDepth) := by
  have hillegal : d.toNat < 1 ∨ 8 < d.toNat := by unfold legalDepth at hd; omega
  rw [packChecked_of_fnlen body hn hle, hdepth, State.withOperand_holds, if_pos hillegal]

/-- PACK after its checks completes or ends with `CapacityExceeded` (R137, R138). -/
theorem packWrite_errcode {s t : State} {d n p np : Word} (h : packWrite s d n p np = .next t) :
    t.errcode = none ∨ t.errcode = some .capacityExceeded := by
  rcases packWrite_next h with ⟨ch, -, -, rfl⟩ | ⟨-, rfl⟩
  · exact .inl rfl
  · exact .inr rfl

/-- With a legal filename length PACK fails its depth check or goes on to write (R131, R132). -/
theorem packChecked_ne_filenameTooLong {s t : State} {n : Word} (hn : s.pkFnlen = Reg.holds n) (hle : n.toNat ≤ 255)
    (h : packChecked s (packWrite s) = .next t) : t.errcode ≠ some .filenameTooLong := by
  rw [packChecked_of_fnlen _ hn hle] at h
  obtain ⟨d, -, h⟩ := State.withOperand_next.1 h
  split_ifs at h
  · rw [← Host.Outcome.next.inj h, State.fail_errcode]
    decide
  · obtain ⟨p, -, h⟩ := State.withOperand_next.1 h
    obtain ⟨np, -, h⟩ := State.withOperand_next.1 h
    rcases packWrite_errcode h with he | he <;> rw [he] <;> decide

/-- Settles O11: the check is PACK's first, and no later ending of PACK has its error. -/
theorem packFilenameTooLong : Obligations.PackFilenameTooLong := by
  intro s n hidle hn hover
  rw [exec_pack_idle hidle hover]
  exact ⟨packChecked_filenameTooLong (s := s.started) _ hn,
    fun hle _ => packChecked_ne_filenameTooLong (s := s.started) hn hle⟩

/-- Settles O12: with the filename length legal the depth check comes next. -/
theorem packInvalidDepth : Obligations.PackInvalidDepth := by
  intro s d n hidle hn hle hdepth hd hover
  rw [exec_pack_idle hidle hover]
  exact packChecked_invalidBitDepth (s := s.started) _ hn hle hdepth hd

/-! ## The two endings -/

/-- Settles O13: the stream written holds each bit of the sequence at its place, and every other bit as before. -/
theorem packEndState : Obligations.PackEndState := by
  intro s d n p np hs hbuf hfits hch
  obtain ⟨ch, hpack⟩ := exists_packStream (d := d) hbuf
  refine ⟨_, exec_pack_fits hs hfits hpack, rfl, fun j hj => ?_, fun i q hq hne => ?_⟩
  · exact packBits_readBit_place hch hpack hs.legal (Nat.zero_le j) (by omega)
  · exact packBits_readBit_other hch hpack hq fun j _ hj => hne j (by omega)

/-- Fewer channels than the preamble takes never suffice (R77, R138). -/
theorem not_fits_of_short {d n p np : Word} (hshort : streamLen np < 112) : ¬ Fits d n p np := by
  unfold Fits used Config.preambleChannels
  omega

/-- Settles O14: the stream is spoiled, whatever it or the input record held. -/
theorem packOverflow : Obligations.PackOverflow := by
  intro s d n p np hs hch
  refine ⟨not_fits_of_short, fun hover => ⟨_, exec_pack_overflow hs hover, rfl, fun i q hq => ?_⟩⟩
  rw [State.packOverflow_ch, Space.readBit_spoil hch _ _ _ hq, ← ite_not]
  simp only [not_or, Nat.not_le]

/-! ## The channels a payload takes -/

/-- At depth 1 a body byte takes eight channels (R77). -/
theorem used_one (r : Nat) : used 1 r = 112 + 8 * r := by
  simp [used, ceilDiv, Config.preambleChannels]

/-- At depth 8 a body byte takes one channel (R77). -/
theorem used_eight (r : Nat) : used 8 r = 112 + r := by
  unfold used ceilDiv Config.preambleChannels
  omega

/-- Settles O20: eight channels a byte against one, and a body of at least five bytes. -/
theorem depthIndependence : Obligations.DepthIndependence := by
  intro n p
  rw [used_one, used_eight]
  unfold bodyBytes
  omega

end Sys2Proof.Machine
end

section
/-! PROOFS. One step of PACK (R135, R136) and its loop (R140, R145): it writes the bits of the closed form one by one until
the sequence or the stream ends. -/

namespace Sys2Proof.Machine

/-! ## The tests of PackStep -/

section
variable {s : State} {c : Cursor} {np : Word} (hnp : s.numpix = Reg.holds np)
include hnp

/-- The first test of R135: all bytes are written. -/
theorem packStep_done (hbc : c.bc = totalBytes c.ln.toNat c.lp.toNat) : packStep s c = .next s.complete := by
  rw [packStep, hnp, State.withOperand_holds, if_pos hbc]

/-- The second test of R135: the stream is at its end. -/
theorem packStep_overflow (hbc : c.bc ≠ totalBytes c.ln.toNat c.lp.toNat) (hci : c.ci = streamLen np) :
    packStep s c = .next (s.packOverflow (streamLen np) c.ld.toNat) := by
  rw [packStep, hnp, State.withOperand_holds, if_neg hbc, if_pos hci]

/-- Both tests passed: the next bit is written (R135). -/
theorem packStep_bit {v : Bool} (hbc : c.bc ≠ totalBytes c.ln.toNat c.lp.toNat) (hci : c.ci ≠ streamLen np)
    (hv : serBit s.fni s.pli c.ld c.ln c.lp (8 * c.bc + c.bi) = some v) :
    packStep s c = .next { s with ch := s.ch.writeBit c.ci c.bp v, cursor := some c.packNext } := by
  rw [packStep, hnp, State.withOperand_holds, if_neg hbc, if_neg hci, hv]

/-- Both tests passed and the next bit is `undef`: refused, unless the stream is too short anyway (R21, log 10). -/
theorem packStep_undef (hbc : c.bc ≠ totalBytes c.ln.toNat c.lp.toNat) (hci : c.ci ≠ streamLen np)
    (hv : serBit s.fni s.pli c.ld c.ln c.lp (8 * c.bc + c.bi) = none) :
    packStep s c = if packFits (streamLen np) c.ld c.ln c.lp then .refused .undefOperand
      else .next { s with cursor := some c.packNext } := by
  rw [packStep, hnp, State.withOperand_holds, if_neg hbc, if_neg hci, hv]

end

/-- A bit of a known byte of the sequence (R67). -/
theorem serBit_of_ser {fni pli : Space} {d n p : Word} {k t : Nat} {b : Byte} (h : ser fni pli d n p k = some b)
    (ht : t < 8) : serBit fni pli d n p (8 * k + t) = some (b.getLsbD t) := by
  rw [serBit, show (8 * k + t) / 8 = k by omega, show (8 * k + t) % 8 = t by omega, h]
  rfl

/-- Settles O18: the three tests exclude each other, and the third moves the cursor on by one bit. -/
theorem packStepOrder : Obligations.PackStepOrder := by
  intro s c np hnp
  refine ⟨packStep_done hnp, fun hbc hci => ⟨_, packStep_overflow hnp hbc hci, rfl⟩, fun hbc hci hbi b hb => ?_⟩
  have hadv := c.packNext_advances
  have hswitch := c.packNext_phase
  refine ⟨c.packNext, packStep_bit hnp hbc hci (serBit_of_ser hb hbi), ?_, ?_, ?_, rfl, rfl, rfl, rfl, rfl⟩
  · rw [hadv.bi, hadv.bc]
    split_ifs <;> exact ⟨rfl, rfl⟩
  · rw [hadv.bp, hadv.ci]
    split_ifs <;> exact ⟨rfl, rfl⟩
  · split_ifs at hswitch ⊢ <;> exact Prod.mk.inj hswitch

/-! ## The bits a stream holds -/

/-- A bit of the sequence has its place inside a stream exactly when the stream holds that many bits (R76, R171). -/
theorem place_lt_iff {j len d : Nat} (hd : 1 ≤ d) : (place j d).1 < len ↔ j < streamBits len d := by
  unfold streamBits Config.preambleChannels
  rcases Nat.lt_or_ge j 112 with hj | hj
  · rw [place_of_lt d hj]
    dsimp only
    split_ifs <;> omega
  · rw [place_of_ge d hj]
    split_ifs with hlen
    · generalize (j - 112) / d = q
      dsimp only; omega
    · have := Nat.div_lt_iff_lt_mul (x := j - 112) (y := len - 112) hd
      dsimp only; omega

/-- A payload fits exactly when the stream holds all the bits of its sequence (R138, R171). -/
theorem used_le_iff_streamBits {d : Nat} (len n p : Nat) (hd : 1 ≤ d) :
    used d (bodyBytes n p) ≤ len ↔ 8 * totalBytes n p ≤ streamBits len d := by
  rw [used_le_iff len hd (by unfold bodyBytes; omega)]
  unfold bodyBytes totalBytes streamBits Config.preambleChannels
  rcases Nat.le_total len 112 with hlen | hlen
  · have hneg : ((len : Int) - 112) * d ≤ 0 := Int.mul_nonpos_of_nonpos_of_nonneg (by omega) (by omega)
    rw [if_pos hlen]
    omega
  · have hcast : ((len : Int) - 112) * d = (((len - 112) * d : Nat) : Int) := by push_cast [hlen]; rfl
    rw [hcast]
    split_ifs with hle
    · obtain rfl : len = 112 := by omega
      omega
    · omega

/-! ## What an overflow leaves of the bits written before it -/

/-- Two canonical spaces whose bits read alike are equal (R21, R63). -/
theorem Space.ext_readBit {sp sp' : Space} (h : sp.wf = true) (h' : sp'.wf = true)
    (hread : ∀ a q, q < 8 → sp.readBit a q = sp'.readBit a q) : sp = sp' := by
  have hknown : ∀ (x : Space) a q, (x.known.read a).getLsbD q = (x.readBit a q).isSome := by
    intro x a q
    unfold Space.readBit
    split_ifs with hdef <;> simp [hdef]
  have hbits : ∀ {x : Space}, x.wf = true → ∀ a q, q < 8 →
      (x.bits.read a).getLsbD q = (x.readBit a q).getD false := by
    intro x hx a q hq
    have hcov := congrArg (BitVec.getLsbD · q) ((Space.wf_iff.1 hx).2.2 a)
    simp only [BitVec.getLsbD_and, BitVec.getLsbD_not, hq, decide_true, Bool.true_and, BitVec.getLsbD_zero] at hcov
    unfold Space.readBit
    split_ifs with hdef
    · rfl
    · simpa only [hdef, Bool.not_false, Bool.and_true, Option.getD_none] using hcov
  refine Space.ext_wf h h' (fun a => ?_) fun a => ?_ <;> refine BitVec.eq_of_getLsbD_eq fun q hq => ?_
  · rw [hbits h a q hq, hbits h' a q hq, hread a q hq]
  · rw [hknown, hknown, hread a q hq]

/-- A bit written inside the stream below the active depth is lost in the overflow (R137). -/
theorem Space.spoil_writeBit {sp : Space} {len d a p : Nat} (v : Bool) (h : sp.wf = true) (ha : a < len)
    (hp : p < if a < 112 then 1 else d) : (sp.writeBit a p v).spoil len d = sp.spoil len d := by
  have hwrite := Space.writeBit_wf a p v h
  refine Space.ext_readBit (Space.spoil_wf _ _ hwrite) (Space.spoil_wf _ _ h) fun b q hq => ?_
  rw [Space.readBit_spoil hwrite _ _ _ hq, Space.readBit_spoil h _ _ _ hq, Space.readBit_writeBit h _ _ _ _ hq]
  by_cases hkeep : len ≤ b ∨ (if b < 112 then 1 else d) ≤ q
  · have hother : ¬ (b = a ∧ q = p) := by rintro ⟨rfl, rfl⟩; omega
    rw [if_neg hother]
  · rw [if_neg hkeep, if_neg hkeep]

/-! ## The cursor in the loop -/

/-- The cursor of a PACK of `T` bytes with latches `d`, `n`, `p`, after `j` bits (R50, R135). -/
structure Cursor.PackAt (c : Cursor) (cfg : Config.Params) (d n p np : Word) (j : Nat) : Prop where
  ph : c.ph = .packPreamble ∨ c.ph = .packBody
  phase : c.PhaseOk
  inStream : c.InStream cfg np
  ld : c.ld = d
  ln : c.ln = n
  lp : c.lp = p
  bits : c.bitsDone = j

/-- The cursor as PACK's start creates it (R49, R130). -/
theorem Cursor.create_packAt {cfg : Config.Params} {d n np : Word} (p : Word) (hd : legalDepth d.toNat)
    (hn : n.toNat ≤ 255) (hnp : np.toNat ≤ cfg.numpixMax) :
    (Cursor.create .packPreamble d n p).PackAt cfg d n p np 0 :=
  ⟨.inl rfl, Cursor.create_pack_phaseOk p hd hn, Cursor.create_inStream _ _ _ _ hnp, rfl, rfl, rfl, rfl⟩

section
variable {c : Cursor} {cfg : Config.Params} {d n p np : Word} {j : Nat} (h : c.PackAt cfg d n p np j)
include h

theorem Cursor.PackAt.legal : legalDepth d.toNat := h.ld ▸ (h.phase.packOk h.ph).1.1

theorem Cursor.PackAt.place : (c.ci, c.bp) = place j d.toNat := by
  obtain ⟨-, -, -, hplaced⟩ := h.inStream
  rw [← h.ld, ← h.bits]
  exact ((c.placed_iff _).1 hplaced).2

/-- The first test of R135 in bits: all of them are written. -/
theorem Cursor.PackAt.bc_eq_iff : c.bc = totalBytes c.ln.toNat c.lp.toNat ↔ j = 8 * totalBytes n.toNat p.toNat := by
  obtain ⟨-, -, hcount⟩ := (h.phase.packOk h.ph).1
  obtain ⟨-, -, hbi, -⟩ := h.inStream
  have hbits := h.bits
  unfold Cursor.bitsDone at hbits
  rw [← h.ln, ← h.lp]
  omega

/-- The second test of R135 in bits: the stream holds no more of them. -/
theorem Cursor.PackAt.ci_eq_iff : c.ci = streamLen np ↔ streamBits (streamLen np) d.toNat ≤ j := by
  obtain ⟨-, hle, -, -⟩ := h.inStream
  have hlt := place_lt_iff (j := j) (len := streamLen np) h.legal.1
  rw [← h.place] at hlt
  dsimp only at hlt
  omega

theorem Cursor.PackAt.serBit_eq (fni pli : Space) :
    serBit fni pli c.ld c.ln c.lp (8 * c.bc + c.bi) = serBit fni pli d n p j := by
  rw [h.ld, h.ln, h.lp, show 8 * c.bc + c.bi = j from h.bits]

/-- A step that goes on leaves the cursor at the next bit (R135, R136). -/
theorem Cursor.PackAt.next (hj : j ≠ 8 * totalBytes n.toNat p.toNat)
    (hlt : j < streamBits (streamLen np) d.toNat) : c.packNext.PackAt cfg d n p np (j + 1) := by
  have hbc := mt h.bc_eq_iff.1 hj
  have hci := mt h.ci_eq_iff.1 (Nat.not_le.2 hlt)
  obtain ⟨hphase, hin, -⟩ := Cursor.packNext_sound h.ph h.phase h.inStream hbc hci
  refine ⟨?_, hphase, hin, h.ld, h.ln, h.lp, ?_⟩
  · have hswitch := c.packNext_phase
    split_ifs at hswitch
    · exact .inr (Prod.mk.inj hswitch).1
    · rw [(Prod.mk.inj hswitch).1]
      exact h.ph
  · rw [c.packNext_advances.bitsDone, h.bits]

end

/-! ## The loop -/

/-- The engine in a phase of PACK. -/
theorem engineStep_pack {s : State} {c : Cursor} (hc : s.cursor = some c)
    (hph : c.ph = .packPreamble ∨ c.ph = .packBody) : engineStep s = packStep s c := by
  unfold engineStep
  rcases hph with hph | hph <;> simp [hc, hph]

/-- A step of a running engine, and the rest of the run. -/
theorem runEngine_next {s t : State} (fuel : Nat) (hrun : s.busy = true) (h : engineStep s = .next t) :
    runEngine (fuel + 1) s = runEngine fuel t := by
  rw [runEngine, if_pos hrun, h]

theorem runEngine_refused {s : State} {r : Refusal} (fuel : Nat) (hrun : s.busy = true)
    (h : engineStep s = .refused r) : runEngine (fuel + 1) s = .refused r := by
  rw [runEngine, if_pos hrun, h]

/-- PACK that fits, by what becomes of its stream (R138, R139). -/
theorem packWrite_fits {s : State} {d n p np : Word} (hfits : packFits (streamLen np) d n p = true) :
    packWrite s d n p np =
      (packStream s d n p).elim (.refused .undefOperand) fun ch => .next { s with ch := ch }.complete := by
  rw [packWrite, if_pos hfits]
  cases packStream s d n p <;> rfl

/-- The state in PACK's loop: the channel memory as far as it is written, and the cursor. -/
def State.packing (s : State) (ch : Space) (c : Cursor) : State := { s with ch := ch, cursor := some c }

theorem State.packing_busy (s : State) (ch : Space) (c : Cursor) : (s.packing ch c).busy = true := rfl

section
variable {s : State} {d n p np : Word} (hnp : s.numpix = Reg.holds np)
include hnp

section
variable {c : Cursor} {j : Nat} (ch : Space) (hc : c.PackAt s.cfg d n p np j)
include hc

/-- The step after the last bit (R135). -/
theorem engineStep_packing_done (hj : j = 8 * totalBytes n.toNat p.toNat) :
    engineStep (s.packing ch c) = .next { s with ch := ch }.complete :=
  (engineStep_pack rfl hc.ph).trans (packStep_done (s := s.packing ch c) hnp (hc.bc_eq_iff.2 hj))

/-- The step at the end of the stream (R135, R137). -/
theorem engineStep_packing_overflow (hj : j ≠ 8 * totalBytes n.toNat p.toNat)
    (hend : streamBits (streamLen np) d.toNat ≤ j) :
    engineStep (s.packing ch c) = .next ({ s with ch := ch }.packOverflow (streamLen np) d.toNat) := by
  rw [engineStep_pack rfl hc.ph, packStep_overflow (s := s.packing ch c) hnp (mt hc.bc_eq_iff.1 hj)
    (hc.ci_eq_iff.2 hend), hc.ld]
  rfl

/-- The step that writes bit `j` to its place (R135). -/
theorem engineStep_packing_bit {v : Bool} (hj : j ≠ 8 * totalBytes n.toNat p.toNat)
    (hlt : j < streamBits (streamLen np) d.toNat) (hv : serBit s.fni s.pli d n p j = some v) :
    engineStep (s.packing ch c) =
      .next (s.packing (ch.writeBit (place j d.toNat).1 (place j d.toNat).2 v) c.packNext) := by
  rw [engineStep_pack rfl hc.ph, ← hc.place]
  exact packStep_bit (s := s.packing ch c) hnp (mt hc.bc_eq_iff.1 hj) (mt hc.ci_eq_iff.1 (Nat.not_le.2 hlt))
    ((hc.serBit_eq s.fni s.pli).trans hv)

/-- The step at a bit of an `undef` byte of the input record (R21, log 10). -/
theorem engineStep_packing_undef (hj : j ≠ 8 * totalBytes n.toNat p.toNat)
    (hlt : j < streamBits (streamLen np) d.toNat) (hv : serBit s.fni s.pli d n p j = none) :
    engineStep (s.packing ch c) = if packFits (streamLen np) d n p then .refused .undefOperand
      else .next (s.packing ch c.packNext) := by
  rw [engineStep_pack rfl hc.ph, packStep_undef (s := s.packing ch c) hnp (mt hc.bc_eq_iff.1 hj)
    (mt hc.ci_eq_iff.1 (Nat.not_le.2 hlt)) ((hc.serBit_eq s.fni s.pli).trans hv), hc.ld, hc.ln, hc.lp]
  rfl

end

/-- Where the stream holds the whole sequence, the steps write its bits in the order of the closed form (R139, R145). -/
theorem runEngine_packing_fits (hfits : packFits (streamLen np) d n p = true)
    (hroom : 8 * totalBytes n.toNat p.toNat ≤ streamBits (streamLen np) d.toNat) {count j : Nat} {c : Cursor}
    (ch : Space) (hc : c.PackAt s.cfg d n p np j) (hcount : j + count = 8 * totalBytes n.toNat p.toNat) :
    runEngine (count + 1) (s.packing ch c) =
      (packBits s.fni s.pli d n p count j ch).elim (.refused .undefOperand)
        fun ch' => .next { s with ch := ch' }.complete := by
  induction count generalizing j c ch with
  | zero => exact (runEngine_one (s.packing_busy ch c)).trans (engineStep_packing_done hnp ch hc hcount)
  | succ count ih =>
    have hj : j ≠ 8 * totalBytes n.toNat p.toNat := by omega
    have hlt : j < streamBits (streamLen np) d.toNat := by omega
    simp only [packBits]
    cases hv : serBit s.fni s.pli d n p j with
    | some v =>
      rw [runEngine_next _ (s.packing_busy ch c) (engineStep_packing_bit hnp ch hc hj hlt hv)]
      exact ih _ (hc.next hj hlt) (by omega)
    | none =>
      exact runEngine_refused _ (s.packing_busy ch c)
        ((engineStep_packing_undef hnp ch hc hj hlt hv).trans (if_pos hfits))

/-- Where the stream ends before the sequence, the steps end in the overflow, which loses all they wrote (R137, R145). -/
theorem runEngine_packing_overflow (hover : packFits (streamLen np) d n p = false)
    (hroom : streamBits (streamLen np) d.toNat < 8 * totalBytes n.toNat p.toNat) {count j : Nat} {c : Cursor}
    {ch : Space} (hch : ch.wf = true) (hspoil : ch.spoil (streamLen np) d.toNat = s.ch.spoil (streamLen np) d.toNat)
    (hc : c.PackAt s.cfg d n p np j) (hcount : j + count = streamBits (streamLen np) d.toNat) :
    runEngine (count + 1) (s.packing ch c) = .next (s.packOverflow (streamLen np) d.toNat) := by
  have hj : j ≠ 8 * totalBytes n.toNat p.toNat := by omega
  induction count generalizing j c ch with
  | zero =>
    rw [runEngine_one (s.packing_busy ch c), engineStep_packing_overflow hnp ch hc hj (by omega)]
    simp only [State.packOverflow, hspoil]
  | succ count ih =>
    have hlt : j < streamBits (streamLen np) d.toNat := by omega
    have hnext := hc.next hj hlt
    cases hv : serBit s.fni s.pli d n p j with
    | some v =>
      have hlost := Space.spoil_writeBit v hch ((place_lt_iff hc.legal.1).2 hlt) (place_below_depth j hc.legal.1)
      rw [runEngine_next _ (s.packing_busy ch c) (engineStep_packing_bit hnp ch hc hj hlt hv)]
      exact ih (Space.writeBit_wf _ _ v hch) (hlost.trans hspoil) hnext (by omega) (by omega)
    | none =>
      rw [runEngine_next _ (s.packing_busy ch c)
        ((engineStep_packing_undef hnp ch hc hj hlt hv).trans (if_neg (Bool.eq_false_iff.1 hover)))]
      exact ih hch hspoil hnext (by omega) (by omega)

end

/-- The checks of a PACK that passes them (R130 to R132). -/
theorem State.PackLegal.packChecked_eq {s : State} {d n p np : Word} (hs : s.PackLegal d n p np)
    (body : Word → Word → Word → Word → Host.Outcome State Fault Refusal) : packChecked s body = body d n p np := by
  rw [packChecked_of_depth body hs.fnlen hs.short hs.depth hs.legal, hs.plen, State.withOperand_holds, hs.numpix,
    State.withOperand_holds]

/-- The start of a PACK that passes its checks creates its cursor (R130, R49). -/
theorem start_pack_legal {s : State} {d n p np : Word} (hs : s.PackLegal d n p np) :
    start .pack s = .next (s.started.packing s.ch (Cursor.create .packPreamble d n p)) := by
  have hover : s.numpixOver = false := by
    rw [State.numpixOver_holds hs.numpix]
    simpa using hs.inRange
  have hs0 : s.started.PackLegal d n p np :=
    ⟨⟨⟨hs.idle, hs.depth, hs.fnlen, hs.numpix, hs.inRange⟩, hs.plen⟩, hs.legal, hs.short⟩
  rw [start, State.begin_idle _ hs.idle hover, hs0.packChecked_eq]
  rfl

/-- Settles O17: with room the loop ends with the sequence, without room with the stream. -/
theorem packSteps : Obligations.PackSteps := by
  intro s d n p np hs hch
  have hroom := used_le_iff_streamBits (streamLen np) n.toNat p.toNat hs.legal.1
  have hcreate := Cursor.create_packAt p hs.legal hs.short hs.inRange
  rw [runCommand, start_pack_legal hs, exec_pack_legal hs]
  by_cases hfits : Fits d n p np
  · have hfits' : packFits (streamLen np) d n p = true := decide_eq_true hfits
    have hle := hroom.1 hfits
    rw [packWrite_fits hfits', Nat.min_eq_left hle]
    exact runEngine_packing_fits (s := s.started) hs.numpix hfits' hle s.ch hcreate (Nat.zero_add _)
  · have hover : packFits (streamLen np) d n p = false := decide_eq_false hfits
    have hlt := Nat.lt_of_not_le (mt hroom.2 hfits)
    rw [packWrite, hover, Nat.min_eq_right hlt.le]
    exact runEngine_packing_overflow (s := s.started) hs.numpix hover hlt hch rfl hcreate (Nat.zero_add _)

end Sys2Proof.Machine
end

section
/-! PROOFS. The bytes UNPACK reads, bit by bit and as lists (R67, R168), and the buffers it fills with them (R66, R169). -/

namespace Sys2Proof.Machine

/-! ## Bytes and lists of bytes of the stream -/

/-- What is gathered depends on the bits of the range only (R111, R168). -/
theorem gatherBits_congr {ch ch' : Space} {d d' j n : Nat}
    (h : ∀ i, i < n → streamBit ch d (j + i) = streamBit ch' d' (j + i)) :
    gatherBits ch d j n = gatherBits ch' d' j n := by
  induction n with
  | zero => rfl
  | succ n ih => simp only [gatherBits, ih fun i hi => h i (by omega), h n (Nat.lt_succ_self n)]

theorem streamByte_congr {ch ch' : Space} {d d' k : Nat}
    (h : ∀ i, i < 8 → streamBit ch d (8 * k + i) = streamBit ch' d' (8 * k + i)) :
    streamByte ch d k = streamByte ch' d' k :=
  gatherBits_congr h

/-- The preamble stands at bit 0 of its channels at every depth (R76). -/
theorem streamByte_preamble (ch : Space) (d d' : Nat) {k : Nat} (hk : k < 14) :
    streamByte ch d k = streamByte ch d' k :=
  streamByte_congr fun i hi => by rw [streamBit_low d (by omega), streamBit_low d' (by omega)]

theorem gatherBits_isSome {ch : Space} {d j n : Nat} (h : ∀ i, i < n → (streamBit ch d (j + i)).isSome = true) :
    (gatherBits ch d j n).isSome = true := by
  induction n with
  | zero => rfl
  | succ n ih =>
    obtain ⟨acc, hacc⟩ := Option.isSome_iff_exists.1 (ih fun i hi => h i (by omega))
    obtain ⟨v, hv⟩ := Option.isSome_iff_exists.1 (h n (Nat.lt_succ_self n))
    simp [gatherBits, hacc, hv]

/-- A byte all of whose bits are defined is defined (R21, R168). -/
theorem streamByte_isSome {ch : Space} {d k : Nat} (h : ∀ i, i < 8 → (streamBit ch d (8 * k + i)).isSome = true) :
    (streamByte ch d k).isSome = true :=
  gatherBits_isSome h

/-- A byte whose eight bits stand in the stream is that byte of the stream (R67, R168). -/
theorem streamByte_of_bits {ch : Space} {d k : Nat} {b : Byte}
    (h : ∀ t, t < 8 → streamBit ch d (8 * k + t) = some (b.getLsbD t)) : streamByte ch d k = some b := by
  obtain ⟨b', hb'⟩ := Option.isSome_iff_exists.1 (streamByte_isSome fun t ht => by rw [h t ht]; rfl)
  rw [hb']
  congr 1
  refine BitVec.eq_of_getLsbD_eq fun t ht => Option.some.inj ?_
  rw [← h t ht]
  exact (gatherBits_bit (Nat.le_refl 8) hb' ht).symm

/-- Every byte of a list read stands in the stream (R168). -/
theorem streamByte_of_streamBytes {ch : Space} {d k n i : Nat} {bs : List Byte} (h : streamBytes ch d k n = some bs)
    (hi : i < n) : streamByte ch d (k + i) = bs[i]? := by
  induction n generalizing k i bs with
  | zero => omega
  | succ n ih =>
    simp only [streamBytes] at h
    split at h
    · rename_i b bs' hb hbs
      cases h
      cases i with
      | zero => exact hb
      | succ i => rw [show k + (i + 1) = k + 1 + i by omega, ih hbs (by omega), List.getElem?_cons_succ]
    · cases h

theorem streamBytes_of_isSome {ch : Space} {d k n : Nat}
    (h : ∀ i, i < n → (streamByte ch d (k + i)).isSome = true) : ∃ bs, streamBytes ch d k n = some bs :=
  ⟨_, streamBytes_of_known (f := fun i => (streamByte ch d (k + i)).getD 0) fun i hi => by
    obtain ⟨b, hb⟩ := Option.isSome_iff_exists.1 (h i hi)
    simp [hb]⟩

/-- A list of bytes all of which stand in the stream is read as that list (R168). -/
theorem streamBytes_of_getElem? {ch : Space} {d k n : Nat} {bs : List Byte} (hlen : bs.length = n)
    (h : ∀ i, i < n → streamByte ch d (k + i) = bs[i]?) : streamBytes ch d k n = some bs := by
  obtain ⟨bs', hbs'⟩ := streamBytes_of_isSome fun i hi => by
    rw [h i hi, List.getElem?_eq_getElem (by omega)]
    rfl
  rw [hbs']
  congr 1
  refine List.ext_getElem? fun i => ?_
  rcases Nat.lt_or_ge i n with hi | hi
  · rw [← h i hi, streamByte_of_streamBytes hbs' hi]
  · rw [List.getElem?_eq_none (by rw [streamBytes_length hbs']; exact hi), List.getElem?_eq_none (by omega)]

/-- The byte after a list read makes it one longer (R168). -/
theorem streamBytes_succ {ch : Space} {d k n : Nat} {bs : List Byte} {b : Byte} (h : streamBytes ch d k n = some bs)
    (hb : streamByte ch d (k + n) = some b) : streamBytes ch d k (n + 1) = some (bs ++ [b]) := by
  have hlen := streamBytes_length h
  refine streamBytes_of_getElem? (by simp [hlen]) fun i hi => ?_
  rcases Nat.lt_succ_iff_lt_or_eq.1 hi with hlt | rfl
  · rw [List.getElem?_append_left (by omega), streamByte_of_streamBytes h hlt]
  · rw [List.getElem?_append_right (by omega), hlen, Nat.sub_self, hb]
    rfl

theorem streamBytes_congr {ch ch' : Space} {d k n : Nat}
    (h : ∀ i, i < n → streamByte ch d (k + i) = streamByte ch' d (k + i)) :
    streamBytes ch d k n = streamBytes ch' d k n := by
  induction n generalizing k with
  | zero => rfl
  | succ n ih =>
    have htail := ih (k := k + 1) fun i hi => by rw [Nat.add_assoc, Nat.add_comm 1 i]; exact h (i + 1) (by omega)
    simp only [streamBytes, htail, show streamByte ch d k = streamByte ch' d k from h 0 (by omega)]

/-- A list of bytes that was read has no `undef` bit (R21). -/
theorem bitsKnown_of_streamBytes {ch : Space} {d k n : Nat} {bs : List Byte} (h : streamBytes ch d k n = some bs) :
    bitsKnown ch d (8 * k) (8 * n) = true := by
  refine bitsKnown_eq_true.2 fun i hi => Option.isSome_iff_ne_none.2 fun hundef => ?_
  have hnone := streamBytes_eq_none (ch := ch) (d := d) (k := k) (n := n) (i := i / 8) (by omega) (by
    rw [show k + i / 8 = (8 * k + i) / 8 by omega]
    exact streamByte_div_eq_none hundef)
  rw [h] at hnone
  cases hnone

/-! ## The output buffers -/

/-- `MemRead` after `MemWrite` (R66). -/
theorem Space.readByte_writeByte {sp : Space} (a x : Nat) (v : Byte) (h : sp.wf = true) :
    (sp.writeByte a v).readByte x = if x = a then some v else sp.readByte x := by
  obtain ⟨hbits, hknown, -⟩ := Space.wf_iff.1 h
  simp only [Space.readByte, Space.writeByte, Memory.read_write hbits, Memory.read_write hknown]
  split_ifs <;> simp_all

/-- `MemRead` after consecutive writes (R66, R183). -/
theorem Space.readByte_writeBytes {sp : Space} (a x : Nat) (bs : List Byte) (h : sp.wf = true) :
    (sp.writeBytes a bs).readByte x = if a ≤ x ∧ x < a + bs.length then bs[x - a]? else sp.readByte x := by
  induction bs generalizing sp a with
  | nil => rw [if_neg (by simp)]; rfl
  | cons b bs ih =>
    rw [Space.writeBytes, ih (a + 1) (Space.writeByte_wf a b h), Space.readByte_writeByte a x b h, List.length_cons]
    rcases Nat.lt_trichotomy x a with hlt | rfl | hgt
    · rw [if_neg (by omega), if_neg (by omega), if_neg (by omega)]
    · rw [if_neg (by omega), if_pos rfl, if_pos (by omega), Nat.sub_self, List.getElem?_cons_zero]
    · obtain ⟨y, rfl⟩ := Nat.exists_eq_add_of_lt hgt
      rw [show a + y + 1 - a = y + 1 by omega, show a + y + 1 - (a + 1) = y by omega, List.getElem?_cons_succ]
      grind

theorem Space.undef_readByte (a : Nat) : Space.undef.readByte a = none := by
  simp [Space.readByte, Space.undef, Memory.unlisted]

theorem Space.undef_readBit (a q : Nat) : Space.undef.readBit a q = none := by
  simp [Space.readBit, Space.undef, Memory.unlisted]

/-- A buffer that held nothing holds the bytes written to it from its start on (R28, R29). -/
theorem Space.readByte_undef_writeBytes (bs : List Byte) (x : Nat) :
    (Space.undef.writeBytes 0 bs).readByte x = bs[x]? := by
  rw [Space.readByte_writeBytes 0 x bs Space.undef_wf, Space.undef_readByte]
  split_ifs with hx
  · rfl
  · exact (List.getElem?_eq_none (by omega)).symm

/-- Above the bytes written every bit of the buffer is `undef` (R28, R29). -/
theorem Space.readBit_undef_writeBytes {bs : List Byte} {x : Nat} (q : Nat) (hx : bs.length ≤ x) :
    (Space.undef.writeBytes 0 bs).readBit x q = none := by
  have hknown := Space.writeBytes_known_other Space.undef 0 x bs (.inr (by omega))
  rw [Space.readBit, hknown, if_neg (by simp [Space.undef, Memory.unlisted])]

theorem Space.writeBytes_concat (sp : Space) (a : Nat) (bs : List Byte) (b : Byte) :
    sp.writeBytes a (bs ++ [b]) = (sp.writeBytes a bs).writeByte (a + bs.length) b := by
  induction bs generalizing sp a with
  | nil => rfl
  | cons x bs ih =>
    rw [List.cons_append, Space.writeBytes, ih, Space.writeBytes, List.length_cons,
      show a + 1 + bs.length = a + (bs.length + 1) by omega]

end Sys2Proof.Machine
end

section
/-! PROOFS. UNPACK in its closed form (R168, R169): the record a stream holds, and what UNPACK makes of it. -/

namespace Sys2Proof.Machine

/-! ## The tests of R168 that pass -/

/-- More body bytes take no fewer channels (R77). -/
theorem used_mono (d : Nat) {r r' : Nat} (h : r ≤ r') : used d r ≤ used d r' := by
  unfold used ceilDiv
  exact Nat.add_le_add_left (Nat.div_le_div_right (by omega)) _

section
variable {ch : Space} {len : Nat} {d n : Byte}

/-- Tests 1 to 4 of R168 passed: UNPACK comes to the filename length. -/
theorem unpackStream_of_depth (hmagic : MagicAt ch) (hlen : 112 ≤ len) (hd : streamByte ch 1 13 = some d)
    (hlegal : legalDepth d.toNat) : unpackStream ch len = unpackBody ch len d := by
  rw [unpackStream_of_magic hmagic (by omega), unpackDepth, if_neg (show ¬ len < Config.preambleChannels from
    Nat.not_lt.2 hlen), hd]
  exact if_neg (show ¬ (d.toNat < 1 ∨ 8 < d.toNat) by unfold legalDepth at hlegal; omega)

/-- Test 5 of R168 passed: UNPACK comes to the filename and the payload length. -/
theorem unpackBody_of_fnlen (hroom : used d.toNat 1 ≤ len) (hn : streamByte ch d.toNat 14 = some n) :
    unpackBody ch len d = unpackLengths ch len d n := by
  rw [unpackBody, if_neg (Nat.not_lt.2 hroom), hn]

/-- `UnLE32` undoes `LE32` (R12). -/
theorem unLe32_le32 (p : Word) :
    unLe32 (p.extractLsb' 0 8) (p.extractLsb' 8 8) (p.extractLsb' 16 8) (p.extractLsb' 24 8) = p :=
  BitVec.eq_of_toNat_eq ((unLe32_toNat ..).trans (toNat_eq_bytes p).symm)

/-- Four bytes of the stream read as a payload length (R12, R168). -/
theorem streamBytes_plen {ch : Space} {d n : Nat} {b0 b1 b2 b3 : Byte} (h0 : streamByte ch d (15 + n) = some b0)
    (h1 : streamByte ch d (16 + n) = some b1) (h2 : streamByte ch d (17 + n) = some b2)
    (h3 : streamByte ch d (18 + n) = some b3) : streamBytes ch d (15 + n) 4 = some (le32 (unLe32 b0 b1 b2 b3)) := by
  rw [lengthBytes.2 b0 b1 b2 b3]
  refine streamBytes_of_getElem? rfl fun i hi => ?_
  rw [Nat.add_right_comm]
  interval_cases i
  · exact h0
  · exact h1
  · exact h2
  · exact h3

/-- Test 6 of R168 passed: UNPACK comes to the payload. -/
theorem unpackLengths_of_plen {p : Word} {name : List Byte} (hroom : used d.toNat (bodyBytes n.toNat 0) ≤ len)
    (hplen : streamBytes ch d.toNat (15 + n.toNat) 4 = some (le32 p))
    (hname : streamBytes ch d.toNat 15 n.toNat = some name) :
    unpackLengths ch len d n = unpackPayload ch len d n p := by
  have hbyte : ∀ i, i < 4 → streamByte ch d.toNat (15 + i + n.toNat) = (le32 p)[i]? := fun i hi => by
    rw [Nat.add_right_comm]
    exact streamByte_of_streamBytes hplen hi
  rw [unpackLengths, if_neg (Nat.not_lt.2 hroom), hbyte 0 (by decide), hbyte 1 (by decide), hbyte 2 (by decide),
    hbyte 3 (by decide)]
  simp only [le32, List.getElem?_cons_zero, List.getElem?_cons_succ, unLe32_le32,
    bitsKnown_of_streamBytes hname, if_true]

end

/-- The stream of `len` channels holds this whole record (R92, R168, R169). -/
structure RecordAt (ch : Space) (len : Nat) (d n : Byte) (name : List Byte) (p : Word) (payload : List Byte) : Prop where
  magic : MagicAt ch
  depth : streamByte ch 1 13 = some d
  legal : legalDepth d.toNat
  fnlen : streamByte ch d.toNat 14 = some n
  name : streamBytes ch d.toNat 15 n.toNat = some name
  plen : streamBytes ch d.toNat (15 + n.toNat) 4 = some (le32 p)
  payload : streamBytes ch d.toNat (19 + n.toNat) p.toNat = some payload
  room : used d.toNat (bodyBytes n.toNat p.toNat) ≤ len

section
variable {ch : Space} {len : Nat} {d n : Byte} {name payload : List Byte} {p : Word}

/-- UNPACK of a stream that holds a record delivers it (R169). -/
theorem RecordAt.unpackStream_eq (h : RecordAt ch len d n name p payload) :
    unpackStream ch len = .ok d n name p payload := by
  have hroom := h.room
  have hpre := le_used (bodyBytes n.toNat p.toNat) h.legal
  have hbody : used d.toNat 1 ≤ used d.toNat (bodyBytes n.toNat p.toNat) :=
    used_mono _ (by unfold bodyBytes; omega)
  have hlengths : used d.toNat (bodyBytes n.toNat 0) ≤ used d.toNat (bodyBytes n.toNat p.toNat) :=
    used_mono _ (by unfold bodyBytes; omega)
  rw [unpackStream_of_depth h.magic (by omega) h.depth h.legal, unpackBody_of_fnlen (by omega) h.fnlen,
    unpackLengths_of_plen (by omega) h.plen h.name, unpackPayload, if_neg (Nat.not_lt.2 hroom), h.name, h.payload]

theorem unpackTruncated_ne_ok (ch : Space) (len k : Nat) : unpackTruncated ch len k ≠ .ok d n name p payload := by
  unfold unpackTruncated
  split_ifs <;> nofun

theorem unpackPayload_ok {d' n' : Byte} {p' : Word} (h : unpackPayload ch len d' n' p' = .ok d n name p payload) :
    (d' = d ∧ n' = n ∧ p' = p) ∧ used d.toNat (bodyBytes n.toNat p.toNat) ≤ len ∧
      streamBytes ch d.toNat 15 n.toNat = some name ∧
      streamBytes ch d.toNat (19 + n.toNat) p.toNat = some payload := by
  unfold unpackPayload at h
  split_ifs at h with hroom
  · exact absurd h (unpackTruncated_ne_ok ch _ _)
  · split at h
    · rename_i hname hpayload
      cases h
      exact ⟨⟨rfl, rfl, rfl⟩, Nat.not_lt.1 hroom, hname, hpayload⟩
    · cases h

theorem unpackLengths_ok {d' n' : Byte} (h : unpackLengths ch len d' n' = .ok d n name p payload) :
    streamBytes ch d'.toNat (15 + n'.toNat) 4 = some (le32 p) ∧
      ∃ p', unpackPayload ch len d' n' p' = .ok d n name p payload := by
  unfold unpackLengths at h
  split at h
  · exact absurd h (unpackTruncated_ne_ok ch _ _)
  split at h
  · rename_i b0 b1 b2 b3 h0 h1 h2 h3
    split at h
    · obtain ⟨⟨-, -, rfl⟩, -⟩ := unpackPayload_ok h
      exact ⟨streamBytes_plen h0 h1 h2 h3, _, h⟩
    · cases h
  · cases h

theorem unpackBody_ok {d' : Byte} (h : unpackBody ch len d' = .ok d n name p payload) :
    ∃ n', streamByte ch d'.toNat 14 = some n' ∧ unpackLengths ch len d' n' = .ok d n name p payload := by
  unfold unpackBody at h
  split_ifs at h
  · exact absurd h (unpackTruncated_ne_ok ch _ _)
  · split at h
    · exact ⟨_, ‹_›, h⟩
    · cases h

theorem unpackDepth_ok (h : unpackDepth ch len = .ok d n name p payload) :
    ∃ d', streamByte ch 1 13 = some d' ∧ legalDepth d'.toNat ∧ unpackBody ch len d' = .ok d n name p payload := by
  unfold unpackDepth at h
  split_ifs at h
  · exact absurd h (unpackTruncated_ne_ok ch _ _)
  · split at h
    · rename_i d' hd
      split_ifs at h
      exact ⟨d', hd, ⟨by omega, by omega⟩, h⟩
    · cases h

/-- The first thirteen bytes read as the magic are the magic (R168). -/
theorem magicAt_of_streamBytes (h : streamBytes ch 1 0 13 = some Config.magic) : MagicAt ch := by
  intro k hk
  have hbyte := streamByte_of_streamBytes h hk
  rw [Nat.zero_add] at hbyte
  rw [hbyte]
  interval_cases k <;> rfl

theorem unpackStream_ok (h : unpackStream ch len = .ok d n name p payload) :
    MagicAt ch ∧ unpackDepth ch len = .ok d n name p payload := by
  unfold unpackStream at h
  split_ifs at h
  · exact absurd h (unpackTruncated_ne_ok ch _ _)
  · split at h
    · rename_i m hm
      split_ifs at h with hmagic
      rw [not_not.1 hmagic] at hm
      exact ⟨magicAt_of_streamBytes hm, h⟩
    · cases h

/-- UNPACK delivers a record exactly where the stream holds it (R168, R169). -/
theorem unpackStream_ok_iff :
    unpackStream ch len = .ok d n name p payload ↔ RecordAt ch len d n name p payload := by
  refine ⟨fun h => ?_, RecordAt.unpackStream_eq⟩
  obtain ⟨hmagic, h⟩ := unpackStream_ok h
  obtain ⟨d', hd, hlegal, h⟩ := unpackDepth_ok h
  obtain ⟨n', hn, h⟩ := unpackBody_ok h
  obtain ⟨hplen, p', h⟩ := unpackLengths_ok h
  obtain ⟨⟨rfl, rfl, -⟩, hroom, hname, hpayload⟩ := unpackPayload_ok h
  exact ⟨hmagic, hd, hlegal, hn, hname, hplen, hpayload, hroom⟩

/-- A stream with the same bits at the record's places holds the same record (R103, R111, R169). -/
theorem RecordAt.congr {ch' : Space} (h : RecordAt ch len d n name p payload)
    (hbits : ∀ j, j < 8 * totalBytes n.toNat p.toNat → streamBit ch' d.toNat j = streamBit ch d.toNat j) :
    RecordAt ch' len d n name p payload := by
  have hbyte : ∀ k, k < totalBytes n.toNat p.toNat → streamByte ch' d.toNat k = streamByte ch d.toNat k :=
    fun k hk => streamByte_congr fun i hi => hbits _ (by omega)
  have hpre : ∀ k, k < 14 → streamByte ch' 1 k = streamByte ch 1 k := fun k hk => by
    rw [streamByte_preamble ch' 1 d.toNat hk, streamByte_preamble ch 1 d.toNat hk]
    exact hbyte k (by unfold totalBytes; omega)
  unfold totalBytes at hbyte
  exact ⟨fun k hk => (hpre k (by omega)).trans (h.magic k hk), (hpre 13 (by decide)).trans h.depth, h.legal,
    (hbyte 14 (by omega)).trans h.fnlen,
    (streamBytes_congr fun i hi => hbyte _ (by omega)).trans h.name,
    (streamBytes_congr fun i hi => hbyte _ (by omega)).trans h.plen,
    (streamBytes_congr fun i hi => hbyte _ (by omega)).trans h.payload, h.room⟩

end

/-! ## UNPACK run whole -/

/-- UNPACK on an idle engine, `NUMPIX` giving the operand `np` (R150, R187). -/
theorem exec_unpack_of_operand {s : State} {np : Word} (hidle : s.cursor = none) (hover : s.numpixOver = false)
    (hnp : s.numpix.operand s.cfg = some np) : exec .unpack s = unpackRead s.started.dropOutput np := by
  rw [exec_unpack_idle hidle hover, State.withOperand, State.started_numpix, State.started_cfg, hnp]

theorem State.UnpackReady.numpixOver {s : State} {np : Word} (hs : s.UnpackReady np) : s.numpixOver = false := by
  rw [State.numpixOver_holds hs.numpix]
  simpa using hs.inRange

theorem State.UnpackReady.exec_unpack {s : State} {np : Word} (hs : s.UnpackReady np) :
    exec .unpack s = unpackRead s.started.dropOutput np :=
  exec_unpack_of_operand hs.idle hs.numpixOver (by rw [hs.numpix, Reg.operand_holds])

theorem unpackRead_error {s : State} {np : Word} {e : ErrKind} (h : unpackStream s.ch (streamLen np) = .error e) :
    unpackRead s np = .next (s.fail e) := by
  rw [unpackRead, h]

theorem unpackRead_undef {s : State} {np : Word} (h : unpackStream s.ch (streamLen np) = .undef) :
    unpackRead s np = .refused .undefOperand := by
  rw [unpackRead, h]

theorem unpackRead_record {s : State} {np : Word} {d n : Byte} {name payload : List Byte} {p : Word}
    (h : RecordAt s.ch (streamLen np) d n name p payload) :
    unpackRead s np = .next (s.deliver d n name p payload).complete := by
  rw [unpackRead, h.unpackStream_eq]

/-- Settles O22: the bytes named make up the record the stream holds, and the buffers were empty before. -/
theorem unpackSuccess : Obligations.UnpackSuccess := by
  intro s np d n b0 b1 b2 b3 hs hmagic hd hlegal hn h0 h1 h2 h3 hroom hname hpayload
  obtain ⟨name, hname⟩ := streamBytes_of_isSome hname
  obtain ⟨payload, hpayload⟩ := streamBytes_of_isSome hpayload
  have hrecord : RecordAt s.ch (streamLen np) d n name (unLe32 b0 b1 b2 b3) payload :=
    ⟨hmagic, hd, hlegal, hn, hname, streamBytes_plen h0 h1 h2 h3, hpayload, hroom⟩
  have hread : ∀ {k m : Nat} {bs : List Byte}, streamBytes s.ch d.toNat k m = some bs → ∀ i,
      (Space.undef.writeBytes 0 bs).readByte i = if i < m then streamByte s.ch d.toNat (k + i) else none := by
    intro k m bs hbs i
    rw [Space.readByte_undef_writeBytes]
    split_ifs with hi
    · exact (streamByte_of_streamBytes hbs hi).symm
    · exact List.getElem?_eq_none (by rw [streamBytes_length hbs]; omega)
  refine ⟨_, hs.exec_unpack.trans (unpackRead_record hrecord), rfl, rfl, rfl, rfl, hread hname, hread hpayload,
    fun i q _ hi => Space.readBit_undef_writeBytes q ?_, fun i q _ hi => Space.readBit_undef_writeBytes q ?_, rfl⟩
  · rw [streamBytes_length hname]
    exact hi
  · rw [streamBytes_length hpayload]
    exact hi

/-- Settles O24: the only ending with an error is the failure of the closed form, after the output record was dropped. -/
theorem unpackFailure : Obligations.UnpackFailure := by
  intro s t e hexec herr
  obtain ⟨-, -, ⟨h, -⟩ | ⟨h, -⟩ | ⟨-, np, -, hread⟩⟩ := exec_next hexec
  · cases h
  · cases h
  rcases unpackRead_next hread with ⟨e', hstream, rfl⟩ | ⟨d, n, name, p, payload, -, rfl⟩
  · have hsound := unpackStream_sound s.started.dropOutput.ch (streamLen np)
    rw [hstream] at hsound
    cases herr
    exact ⟨hsound, rfl, ⟨rfl, rfl, rfl⟩, fun a q => ⟨Space.undef_readBit a q, Space.undef_readBit a q⟩, rfl, rfl,
      ⟨rfl, rfl, rfl, rfl, rfl, rfl, rfl, rfl, rfl, rfl⟩, rfl, rfl, rfl⟩
  · cases herr

/-- The start of UNPACK (R150, R151). -/
theorem State.UnpackReady.start_unpack {s : State} {np : Word} (hs : s.UnpackReady np) :
    start .unpack s = .next { s.started.dropOutput with cursor := some (Cursor.create .readingMagic 0 0 0) } := by
  rw [start, State.begin_idle _ hs.idle hs.numpixOver, State.started_numpix, hs.numpix, State.withOperand_holds]

/-- Settles O25: the start drops the output record and creates the cursor. -/
theorem unpackStart : Obligations.UnpackStart := fun _ _ hs =>
  ⟨_, _, hs.start_unpack, rfl, rfl, ⟨rfl, rfl, rfl⟩,
    fun a q => ⟨Space.undef_readBit a q, Space.undef_readBit a q⟩, rfl, rfl, rfl, rfl, rfl, rfl⟩

/-- Settles O23: the record stands in the other channel memory too, and UNPACK passes the rest of the state on. -/
theorem unpackReadsItsBits : Obligations.UnpackReadsItsBits := by
  intro s t ch' hexec hok hbits
  obtain ⟨hbusy, hover, ⟨h, -⟩ | ⟨h, -⟩ | ⟨-, np, hnp, hread⟩⟩ := exec_next hexec
  · cases h
  · cases h
  rcases unpackRead_next hread with ⟨e, -, rfl⟩ | ⟨d, n, name, p, payload, hstream, rfl⟩
  · cases hok
  have hrecord := unpackStream_ok_iff.1 hstream
  have hwidth : ∀ b : Byte, (b.setWidth 32).toNat = b.toNat := fun b =>
    BitVec.toNat_setWidth_of_le (by decide)
  have hrecord' : RecordAt ch' (streamLen np) d n name p payload := hrecord.congr fun j hj => by
    have hbit := hbits j (by simpa [Reg.holds, hwidth] using hj)
    simpa [Reg.holds, hwidth] using hbit
  rw [exec_unpack_of_operand (s := { s with ch := ch' }) (s.busy_false_iff.1 hbusy) hover hnp]
  exact unpackRead_record (s := ({ s with ch := ch' } : State).started.dropOutput) hrecord'

end Sys2Proof.Machine
end

section
/-! PROOFS. The round trip (R170) and the corruptions UNPACK detects (R173): the stream PACK leaves, read by UNPACK. -/

namespace Sys2Proof.Machine

/-! ## The stream after PACK -/

/-- A word below 256 is one byte of the sequence (R93, R154). -/
theorem toNat_setWidth_byte {v : Word} (h : v.toNat ≤ 255) : (v.setWidth 8).toNat = v.toNat := by
  rw [BitVec.toNat_setWidth]
  exact Nat.mod_eq_of_lt (by omega)

theorem setWidth_setWidth_byte {v : Word} (h : v.toNat ≤ 255) : (v.setWidth 8).setWidth 32 = v :=
  BitVec.eq_of_toNat_eq ((BitVec.toNat_setWidth_of_le (by decide)).trans (toNat_setWidth_byte h))

/-- After PACK each byte of the sequence stands in the stream (R139, R168). -/
theorem streamByte_packed {s : State} {d n p : Word} {ch : Space} {k : Nat} (hd : legalDepth d.toNat)
    (hch : s.ch.wf = true) (h : packStream s d n p = some ch) (hk : k < totalBytes n.toNat p.toNat) :
    streamByte ch d.toNat k = ser s.fni s.pli d n p k := by
  have hbit : ∀ i, i < 8 → ∃ v, serBit s.fni s.pli d n p (8 * k + i) = some v ∧
      streamBit ch d.toNat (8 * k + i) = some v := fun i hi =>
    packBits_readBit_place hch h hd (Nat.zero_le _) (by omega)
  cases hser : ser s.fni s.pli d n p k with
  | none =>
    obtain ⟨v, hv, -⟩ := hbit 0 (by decide)
    rw [serBit, show (8 * k + 0) / 8 = k by omega, hser] at hv
    cases hv
  | some b =>
    refine streamByte_of_bits fun i hi => ?_
    obtain ⟨v, hv, hread⟩ := hbit i hi
    rw [hread, ← hv, serBit_of_ser hser hi]

section
variable {s : State} {d n p : Word} {ch : Space} (hd : legalDepth d.toNat) (hch : s.ch.wf = true)
  (h : packStream s d n p = some ch)
include hd hch h

/-- After PACK the stream starts with the magic (R92, R139). -/
theorem magicAt_packed : MagicAt ch := fun k hk => by
  rw [streamByte_preamble ch 1 d.toNat (by omega), streamByte_packed hd hch h (by unfold totalBytes; omega), ser,
    if_pos (by omega)]

/-- After PACK the stream holds the record packed, as it stood in the input buffers (R92, R139, R170). -/
theorem exists_recordAt_packed {len : Nat} (hn : n.toNat ≤ 255) (hbuf : s.BuffersDefined n p)
    (hfits : used d.toNat (bodyBytes n.toNat p.toNat) ≤ len) :
    ∃ name payload, RecordAt ch len (d.setWidth 8) (n.setWidth 8) name p payload ∧
      (∀ i, i < n.toNat → name[i]? = s.fni.readByte i) ∧ (∀ i, i < p.toNat → payload[i]? = s.pli.readByte i) := by
  have hbyte : ∀ k, k < totalBytes n.toNat p.toNat → streamByte ch d.toNat k = ser s.fni s.pli d n p k :=
    fun k hk => streamByte_packed hd hch h hk
  unfold totalBytes at hbyte
  have hname : ∀ i, i < n.toNat → streamByte ch d.toNat (15 + i) = s.fni.readByte i := fun i hi =>
    (hbyte _ (by omega)).trans (ser_filename hi)
  have hpayload : ∀ i, i < p.toNat → streamByte ch d.toNat (19 + n.toNat + i) = s.pli.readByte i := fun i hi =>
    (hbyte _ (by omega)).trans (ser_payload ..)
  have hdepth : streamByte ch 1 13 = some (d.setWidth 8) :=
    (streamByte_preamble ch 1 d.toNat (by decide)).trans (hbyte 13 (by omega))
  have hplen : streamBytes ch d.toNat (15 + n.toNat) 4 = some (le32 p) :=
    streamBytes_of_getElem? rfl fun i hi => (hbyte _ (by omega)).trans (ser_payloadLength _ _ d n p hi)
  obtain ⟨name, hreadName⟩ := streamBytes_of_isSome fun i hi => by rw [hname i hi]; exact hbuf.1 i hi
  obtain ⟨payload, hreadPayload⟩ := streamBytes_of_isSome fun i hi => by rw [hpayload i hi]; exact hbuf.2 i hi
  refine ⟨name, payload, ?_, fun i hi => ?_, fun i hi => ?_⟩
  · have hdb : (d.setWidth 8).toNat = d.toNat := toNat_setWidth_byte (by unfold legalDepth at hd; omega)
    have hnb : (n.setWidth 8).toNat = n.toNat := toNat_setWidth_byte hn
    exact ⟨magicAt_packed hd hch h, hdepth, by rwa [hdb], by rw [hdb]; exact hbyte 14 (by omega),
      by rwa [hdb, hnb], by rwa [hdb, hnb], by rwa [hdb, hnb], by rwa [hdb, hnb]⟩
  · rw [← hname i hi, streamByte_of_streamBytes hreadName hi]
  · rw [← hpayload i hi, streamByte_of_streamBytes hreadPayload hi]

end

/-- UNPACK's operand is ready after PACK: PACK leaves `NUMPIX` alone and the engine idle (R142, R170). -/
theorem State.PackLegal.unpackReady {s : State} {d n p np : Word} (hs : s.PackLegal d n p np) (ch : Space) :
    ({ s with ch := ch }.complete).UnpackReady np :=
  ⟨rfl, hs.numpix, hs.inRange⟩

/-- Settles O29: PACK leaves its record in the stream, and UNPACK delivers the record the stream holds. -/
theorem roundTrip : Obligations.RoundTrip := by
  intro s d n p np hs hbuf hfits hch
  obtain ⟨ch, hpack⟩ := exists_packStream (d := d) hbuf
  obtain ⟨name, payload, hrecord, hname, hpayload⟩ :=
    exists_recordAt_packed hs.legal hch hpack hs.short hbuf hfits
  refine ⟨_, _, exec_pack_fits hs hfits hpack, rfl,
    (hs.unpackReady ch).exec_unpack.trans (unpackRead_record hrecord), rfl, rfl, ?_, ?_, rfl, fun i hi => ?_,
    fun i hi => ?_⟩
  · have hd := hs.legal
    unfold legalDepth at hd
    exact congrArg Reg.holds (setWidth_setWidth_byte (by omega))
  · exact congrArg Reg.holds (setWidth_setWidth_byte hs.short)
  · exact (Space.readByte_undef_writeBytes name i).trans (hname i hi)
  · exact (Space.readByte_undef_writeBytes payload i).trans (hpayload i hi)

/-! ## Corrupted streams -/

/-- A stream whose first thirteen bytes are defined but are not the magic (R168). -/
theorem unpackStream_of_not_magic {ch : Space} {len : Nat} (hlen : 104 ≤ len)
    (hbits : ∀ j, j < 104 → (streamBit ch 1 j).isSome = true) (hmagic : ¬ MagicAt ch) :
    unpackStream ch len = .error .magicMismatch := by
  obtain ⟨m, hm⟩ := streamBytes_of_isSome (ch := ch) (d := 1) (k := 0) (n := 13) fun i hi =>
    streamByte_isSome fun t ht => hbits _ (by omega)
  have hne : m ≠ Config.magic := fun heq => hmagic (magicAt_of_streamBytes (heq ▸ hm))
  rw [unpackStream, if_neg (show ¬ len < 8 * Config.magicLen from Nat.not_lt.2 hlen), show Config.magicLen = 13 from rfl,
    hm]
  exact if_pos hne

/-- The magic followed by a depth byte out of range (R168). -/
theorem unpackStream_of_illegal_depth {ch : Space} {len : Nat} {d : Byte} (hmagic : MagicAt ch) (hlen : 112 ≤ len)
    (hd : streamByte ch 1 13 = some d) (hillegal : ¬ legalDepth d.toNat) :
    unpackStream ch len = .error .invalidBitDepth := by
  rw [unpackStream_of_magic hmagic (by omega), unpackDepth, if_neg (show ¬ len < Config.preambleChannels from
    Nat.not_lt.2 hlen), hd]
  exact if_pos (show d.toNat < 1 ∨ 8 < d.toNat by unfold legalDepth at hillegal; omega)

/-- A stream that starts with the magic has it bit by bit (R67). -/
theorem MagicAt.readBit {ch : Space} (h : MagicAt ch) {j : Nat} (hj : j < 104) :
    ch.readBit j 0 = some ((Config.magic.getD (j / 8) 0).getLsbD (j % 8)) := by
  have hbit := gatherBits_bit (Nat.le_refl 8) (h (j / 8) (by omega)) (Nat.mod_lt j (by decide))
  rwa [Nat.div_add_mod, streamBit_low 1 (by omega)] at hbit

/-- With one bit of the magic inverted the stream does not start with the magic (R173). -/
theorem unpackStream_flipped {ch : Space} {len i : Nat} {v : Bool} (hch : ch.wf = true) (hmagic : MagicAt ch)
    (hlen : 104 ≤ len) (hi : i < 104) (hv : ch.readBit i 0 = some v) :
    unpackStream (ch.writeBit i 0 (!v)) len = .error .magicMismatch := by
  have hread := fun j => Space.readBit_writeBit hch i 0 j (q := 0) (!v) (by decide)
  refine unpackStream_of_not_magic hlen (fun j hj => ?_) fun hmagic' => ?_
  · rw [streamBit_low 1 (by omega), hread]
    split_ifs
    · rfl
    · rw [hmagic.readBit hj]
      rfl
  · have hflip := (hread i).symm.trans (hmagic'.readBit hi)
    rw [if_pos ⟨rfl, rfl⟩, ← hmagic.readBit hi, hv] at hflip
    exact absurd (Option.some.inj hflip) (by cases v <;> decide)

/-- The rewriting of the depth byte, channel by channel (R173). -/
theorem foldl_writeBit_depth {ch : Space} (b : Byte) (hch : ch.wf = true) (count j : Nat) :
    let ch' := (List.range count).foldl (fun sp k => sp.writeBit (104 + k) 0 (b.getLsbD k)) ch
    ch'.wf = true ∧ ch'.readBit j 0 =
      if 104 ≤ j ∧ j < 104 + count then some (b.getLsbD (j - 104)) else ch.readBit j 0 := by
  induction count with
  | zero => exact ⟨hch, by rw [if_neg (by omega)]; rfl⟩
  | succ count ih =>
    obtain ⟨hwf, hread⟩ := ih
    simp only [List.range_succ, List.foldl_append, List.foldl_cons, List.foldl_nil]
    refine ⟨Space.writeBit_wf _ _ _ hwf, ?_⟩
    rw [Space.readBit_writeBit hwf _ _ _ _ (by decide), hread]
    by_cases hlast : j = 104 + count
    · subst hlast
      rw [if_pos ⟨rfl, rfl⟩, if_pos (by omega), Nat.add_sub_cancel_left]
    · rw [if_neg fun h => hlast h.1]
      congr 1
      exact propext (by omega)

/-- With its depth byte rewritten the stream holds the byte written, the magic before it (R173). -/
theorem withDepthByte_preamble {ch : Space} (b : Byte) (hch : ch.wf = true) (hmagic : MagicAt ch) :
    MagicAt (withDepthByte ch b) ∧ streamByte (withDepthByte ch b) 1 13 = some b := by
  have hread : ∀ j, (withDepthByte ch b).readBit j 0 =
      if 104 ≤ j ∧ j < 104 + 8 then some (b.getLsbD (j - 104)) else ch.readBit j 0 := fun j =>
    (foldl_writeBit_depth b hch 8 j).2
  refine ⟨fun k hk => ?_, streamByte_of_bits fun t ht => ?_⟩
  · rw [← hmagic k hk]
    refine streamByte_congr fun t ht => ?_
    rw [streamBit_low 1 (by omega), streamBit_low 1 (by omega), hread, if_neg (by omega)]
  · rw [streamBit_low 1 (by omega), hread, if_pos (by omega), show 8 * 13 + t - 104 = t by omega]

/-- Settles O30: the packed stream starts with the magic, and UNPACK meets the altered byte first. -/
theorem corruptionDetected : Obligations.CorruptionDetected := by
  intro s d n p np hs hbuf hfits hch
  obtain ⟨ch, hpack⟩ := exists_packStream (d := d) hbuf
  have hmagic := magicAt_packed hs.legal hch hpack
  have hwf : ch.wf = true := packBits_wf hch hpack
  have hlen : 112 ≤ streamLen np := (Nat.le_add_right ..).trans hfits
  have hunpack : ∀ (ch' : Space) (e : ErrKind), unpackStream ch' (streamLen np) = .error e →
      ∃ u, exec .unpack ({ ({ s with ch := ch }.complete) with ch := ch' }) = .next u ∧ u.errcode = some e :=
    fun ch' e he => ⟨_, (hs.unpackReady ch').exec_unpack.trans (unpackRead_error he), rfl⟩
  refine ⟨_, exec_pack_fits hs hfits hpack, fun i hi => ⟨_, hmagic.readBit hi, hunpack _ _ ?_⟩,
    fun b hb => hunpack _ _ ?_⟩
  · exact unpackStream_flipped hwf hmagic (by omega) hi (hmagic.readBit hi)
  · obtain ⟨hmagic', hbyte⟩ := withDepthByte_preamble b hwf hmagic
    refine unpackStream_of_illegal_depth hmagic' hlen hbyte ?_
    rcases hb with rfl | rfl <;> decide

end Sys2Proof.Machine
end

section
/-! PROOFS. The eight tests of R168 on a stream with every bit defined: the ending of each stage of UNPACK. -/

namespace Sys2Proof.Machine

/-- The outcome of UNPACK ends the command with the error `o`, or without one; a refused command has no ending (R168). -/
def UnpackResult.Ends : UnpackResult → Option ErrKind → Prop
  | .undef, _ => False
  | .error e, o => o = some e
  | .ok _ _ _ _ _, o => o = none

/-- `Byte(k)` at depth `d` (R168), 0 where a bit of it is `undef`. -/
def byteAt (ch : Space) (d k : Nat) : Byte := (streamByte ch d k).getD 0

/-- Every bit that a stream of `len` channels holds at depth `d` is defined (R171, R230). -/
def AllKnown (ch : Space) (len d : Nat) : Prop := bitsKnown ch d 0 (streamBits len d) = true

/-- A body of `r` bytes fits exactly when the stream holds the bits of preamble and body (R77, R171). -/
theorem used_le_iff_bits {d r : Nat} (len : Nat) (hd : 1 ≤ d) (hr : 1 ≤ r) :
    used d r ≤ len ↔ 8 * (14 + r) ≤ streamBits len d := by
  have hlast : used d r = (place (112 + 8 * r - 1) d).1 + 1 := ((usedExact d r hd hr).2).symm
  rw [hlast, Nat.succ_le_iff, place_lt_iff hd]
  omega

section
variable {ch : Space} {len d : Nat} (hknown : AllKnown ch len d)
include hknown

theorem AllKnown.bit {j : Nat} (hj : j < streamBits len d) : (streamBit ch d j).isSome = true := by
  have hbit := bitsKnown_eq_true.1 hknown j hj
  rwa [Nat.zero_add] at hbit

theorem AllKnown.byte {k : Nat} (hk : 8 * (k + 1) ≤ streamBits len d) :
    streamByte ch d k = some (byteAt ch d k) := by
  obtain ⟨b, hb⟩ := Option.isSome_iff_exists.1 (streamByte_isSome (k := k) fun i hi => hknown.bit (by omega))
  rw [byteAt, hb, Option.getD_some]

theorem AllKnown.bytes {k n : Nat} (hk : 8 * (k + n) ≤ streamBits len d) :
    streamBytes ch d k n = some ((List.range n).map fun i => byteAt ch d (k + i)) :=
  streamBytes_of_known fun i hi => hknown.byte (by omega)

/-- A stream that ends before a boundary fails there (R156). -/
theorem AllKnown.truncated : unpackTruncated ch len d = .error .truncatedStream := if_pos hknown

end

section
variable {ch : Space} {len : Nat} {d : Byte} (hd : legalDepth d.toNat) (hknown : AllKnown ch len d.toNat)
include hd hknown

/-- Tests 7 and 8 of R168. -/
theorem unpackPayload_ends (n : Byte) (p : Word) : (unpackPayload ch len d n p).Ends
    (if len < used d.toNat (bodyBytes n.toNat p.toNat) then some .truncatedStream else none) := by
  unfold unpackPayload
  split_ifs with hroom
  · rw [hknown.truncated]
    rfl
  · have hbits := (used_le_iff_bits len hd.1 (by unfold bodyBytes; omega)).1 (Nat.not_lt.1 hroom)
    unfold bodyBytes at hbits
    rw [hknown.bytes (by omega), hknown.bytes (by omega)]
    rfl

/-- Test 6 of R168 and those after it. -/
theorem unpackLengths_ends (n : Byte) : (unpackLengths ch len d n).Ends
    (if len < used d.toNat (bodyBytes n.toNat 0) then some .truncatedStream
      else if len < used d.toNat (bodyBytes n.toNat (unLe32 (byteAt ch d.toNat (15 + n.toNat))
        (byteAt ch d.toNat (16 + n.toNat)) (byteAt ch d.toNat (17 + n.toNat)) (byteAt ch d.toNat (18 + n.toNat))).toNat)
      then some .truncatedStream else none) := by
  by_cases hroom : len < used d.toNat (bodyBytes n.toNat 0)
  · rw [if_pos hroom, unpackLengths, if_pos hroom, hknown.truncated]
    rfl
  · have hbits := (used_le_iff_bits len hd.1 (by unfold bodyBytes; omega)).1 (Nat.not_lt.1 hroom)
    unfold bodyBytes at hbits
    have hbyte : ∀ k, k < 19 + n.toNat → streamByte ch d.toNat k = some (byteAt ch d.toNat k) := fun k hk =>
      hknown.byte (by omega)
    rw [if_neg hroom, unpackLengths_of_plen (Nat.not_lt.1 hroom) (streamBytes_plen (hbyte _ (by omega))
      (hbyte _ (by omega)) (hbyte _ (by omega)) (hbyte _ (by omega))) (hknown.bytes (by omega))]
    exact unpackPayload_ends hd hknown n _

/-- Test 5 of R168 and those after it. -/
theorem unpackBody_ends {o : Option ErrKind}
    (hrest : used d.toNat 1 ≤ len → (unpackLengths ch len d (byteAt ch d.toNat 14)).Ends o) :
    (unpackBody ch len d).Ends (if len < used d.toNat 1 then some .truncatedStream else o) := by
  by_cases hroom : len < used d.toNat 1
  · rw [if_pos hroom, unpackBody, if_pos hroom, hknown.truncated]
    rfl
  · have hbits := (used_le_iff_bits len hd.1 (Nat.le_refl 1)).1 (Nat.not_lt.1 hroom)
    rw [if_neg hroom, unpackBody_of_fnlen (Nat.not_lt.1 hroom) (hknown.byte (by omega))]
    exact hrest (Nat.not_lt.1 hroom)

end

/-- Tests 3 and 4 of R168 and those after them. -/
theorem unpackDepth_ends {ch : Space} {len : Nat} {o : Option ErrKind} (hknown : AllKnown ch len 1)
    (hrest : legalDepth (byteAt ch 1 13).toNat → (unpackBody ch len (byteAt ch 1 13)).Ends o) :
    (unpackDepth ch len).Ends (if len < 112 then some .truncatedStream
      else if (byteAt ch 1 13).toNat < 1 ∨ 8 < (byteAt ch 1 13).toNat then some .invalidBitDepth else o) := by
  unfold unpackDepth Config.preambleChannels
  by_cases hlen : len < 112
  · rw [if_pos hlen, if_pos hlen, hknown.truncated]
    rfl
  · have hbits : 112 ≤ streamBits len 1 := by unfold streamBits Config.preambleChannels; split_ifs <;> omega
    rw [if_neg hlen, if_neg hlen, hknown.byte (by omega)]
    dsimp only
    split_ifs with hd
    · rfl
    · exact hrest ⟨by omega, by omega⟩

/-- Tests 1 and 2 of R168 and those after them. -/
theorem unpackStream_ends {ch : Space} {len : Nat} {o : Option ErrKind} (hknown : AllKnown ch len 1)
    (hrest : (unpackDepth ch len).Ends o) :
    (unpackStream ch len).Ends (if len < 104 then some .truncatedStream
      else if (List.range 13).map (byteAt ch 1) ≠ Config.magic then some .magicMismatch else o) := by
  unfold unpackStream
  rw [show 8 * Config.magicLen = 104 from rfl, show Config.magicLen = 13 from rfl]
  by_cases hlen : len < 104
  · rw [if_pos hlen, if_pos hlen, hknown.truncated]
    rfl
  · have hbits : 104 ≤ streamBits len 1 := by unfold streamBits Config.preambleChannels; split_ifs <;> omega
    rw [if_neg hlen, if_neg hlen, hknown.bytes (by omega)]
    simp only [Nat.zero_add]
    split_ifs with hmagic
    · rfl
    · exact hrest

/-- The command ends as the outcome of its stream says (R168, R204, R205). -/
theorem State.UnpackReady.exec_unpack_ends {s : State} {np : Word} {o : Option ErrKind} (hs : s.UnpackReady np)
    (h : (unpackStream s.ch (streamLen np)).Ends o) : ∃ t, exec .unpack s = .next t ∧ t.errcode = o := by
  rw [hs.exec_unpack]
  cases hstream : unpackStream s.ch (streamLen np) with
  | undef => rw [hstream] at h; exact h.elim
  | error e => rw [hstream] at h; exact ⟨_, unpackRead_error hstream, h.symm⟩
  | ok d n name p payload =>
    rw [hstream] at h
    exact ⟨_, unpackRead_record (unpackStream_ok_iff.1 hstream), h.symm⟩

/-- With every bit of its channels defined, all that the stream holds at a legal depth is defined (R76, R230). -/
theorem allKnown_of_channels {ch : Space} {len d : Nat} (hd : legalDepth d)
    (hch : ∀ i, i < len → ∀ q, q < 8 → (ch.readBit i q).isSome = true) : AllKnown ch len d :=
  bitsKnown_eq_true.2 fun j hj => by
    rw [Nat.zero_add]
    exact hch _ ((place_lt_iff hd.1).2 hj) _ (place_bit_lt j hd)

/-- Settles O21: the stages of UNPACK in the order of the tests. -/
theorem unpackOutcome : Obligations.UnpackOutcome := by
  intro s np hs hch
  have hknown := fun d (hd : legalDepth d) => allKnown_of_channels hd hch
  have hone := hknown 1 (by decide)
  refine hs.exec_unpack_ends (unpackStream_ends hone (unpackDepth_ends hone fun hd => ?_))
  refine unpackBody_ends hd (hknown _ hd) fun _ => ?_
  have hlengths := unpackLengths_ends hd (hknown _ hd) (byteAt s.ch (byteAt s.ch 1 13).toNat 14)
  rw [unLe32_toNat] at hlengths
  exact hlengths

end Sys2Proof.Machine
end

section
/-! PROOFS. One turn of UNPACK's loop (R150, R153): `ReadStep` (R157) with `StoreByte` (R154), then the cases of Transitions
(R160 to R166). -/

namespace Sys2Proof.Machine

/-! ## Transitions -/

/-- The byte count at which the row of the cursor's phase applies (R160 to R166); none outside UNPACK. -/
def Cursor.boundary (c : Cursor) : Option Nat :=
  match c.ph with
  | .packPreamble => none
  | .packBody => none
  | .capCompute => none
  | .readingMagic => some 13
  | .readingBitDepth => some 14
  | .readingFilenameLength => some 15
  | .readingFilename => some (15 + c.ln.toNat)
  | .readingPayloadLength => some (19 + c.ln.toNat)
  | .readingPayload => some (19 + c.ln.toNat + c.lp.toNat)

/-- No case of Transitions applies exactly where no row's byte count is reached (R160). -/
theorem Cursor.transition_stay_iff (c : Cursor) : c.transition = .stay ↔ c.boundary ≠ some c.bc := by
  unfold Cursor.transition Cursor.boundary
  cases c.ph <;> simp only [ne_eq, Option.some.injEq, reduceCtorEq, not_false_eq_true, eq_comm (b := c.bc)] <;>
    split_ifs with h <;> simp only [h, not_true_eq_false, not_false_eq_true]

theorem transitions_stay {c : Cursor} (fuel : Nat) (s : State) (h : c.transition = .stay) :
    transitions (fuel + 1) s c = { s with cursor := some c } := by
  rw [transitions, h]

theorem transitions_failed {c : Cursor} {e : ErrKind} (fuel : Nat) (s : State) (h : c.transition = .failed e) :
    transitions (fuel + 1) s c = s.dropOutput.ended (some e) := by
  rw [transitions, h]
  rfl

theorem transitions_finished {c : Cursor} (fuel : Nat) (s : State) (h : c.transition = .finished) :
    transitions (fuel + 1) s c = s.finishUnpack c := by
  rw [transitions, h]

/-- After a case that moves on, Transitions starts over: the passes left are as good as seven (R160). -/
theorem transitions_moved {c c' : Cursor} (s : State) (h : c.transition = .moved c') :
    transitions 7 s c = transitions 7 s c' := by
  have hrank := (Cursor.transition_moved_rank h).1
  rw [transitions, h]
  exact transitions_enough 5 s c' (by omega)

/-- Settles O60: each row of R160 is one case of the cursor's transition, and no row is the case that stays. -/
theorem transitionsRepeat : Obligations.TransitionsRepeat := by
  intro s c
  refine ⟨fun hph hbc => ?_, fun hph hbc => ?_, fun hph hbc => transitions_moved s ?_,
    fun hph hbc => transitions_moved s ?_, fun hph hbc => transitions_moved s ?_,
    fun hph hbc => transitions_finished 6 s ?_, fun h1 h2 h3 h4 h5 h6 => transitions_stay 6 s ?_⟩
  · split_ifs with hmm
    · exact transitions_failed 6 s (by simp [Cursor.transition, hph, hbc, hmm])
    · exact transitions_moved s (by simp [Cursor.transition, hph, hbc, hmm])
  · split_ifs with hd
    · exact transitions_failed 6 s (by simp only [Cursor.transition, hph, hbc, hd, if_true])
    · exact transitions_moved s (by simp only [Cursor.transition, hph, hbc, hd, if_true, if_false])
  · simp only [Cursor.transition, hph, hbc, if_true]
  · simp only [Cursor.transition, hph, hbc, if_true]
  · simp only [Cursor.transition, hph, hbc, if_true]
  · simp only [Cursor.transition, hph, hbc, if_true]
  · rw [c.transition_stay_iff, Cursor.boundary]
    cases hph : c.ph <;> simp_all [eq_comm (b := c.bc)]

/-! ## ReadStep -/

section
variable {s : State} {c : Cursor} {np : Word} (hnp : s.numpix = Reg.holds np)
include hnp

/-- The stream is at its end (R156). -/
theorem unpackStep_exhausted (hci : c.ci = streamLen np) :
    unpackStep s c = .next (s.dropOutput.fail .truncatedStream) := by
  rw [unpackStep, hnp, State.withOperand_holds, if_pos hci]

/-- The next bit is `undef` (R21). -/
theorem unpackStep_undef (hci : c.ci ≠ streamLen np) (hv : s.ch.readBit c.ci c.bp = none) :
    unpackStep s c = .refused .undefOperand := by
  rw [unpackStep, hnp, State.withOperand_holds, if_neg hci, hv]

/-- The next bit is read (R157). -/
theorem unpackStep_bit {v : Bool} (hci : c.ci ≠ streamLen np) (hv : s.ch.readBit c.ci c.bp = some v) :
    unpackStep s c = .next (transitions 7 (s.readNext c v) (c.readNext v)) := by
  rw [unpackStep, hnp, State.withOperand_holds, if_neg hci, hv]

end

/-- A bit that does not complete its byte writes no buffer (R157). -/
theorem State.readNext_of_bit (s : State) {c : Cursor} (v : Bool) (h : c.bi + 1 ≠ 8) : s.readNext c v = s := if_neg h

/-- `StoreByte` latch by latch (R154). -/
theorem Cursor.storeByte_eq (c : Cursor) (k : Nat) (v : Byte) :
    c.storeByte k v = { c with
      mm := if k ≤ 12 ∧ v ≠ Config.magic.getD k 0 then true else c.mm
      ld := if k = 13 then v.setWidth 32 else c.ld
      ln := if k = 14 then v.setWidth 32 else c.ln
      lp := if 15 + c.ln.toNat ≤ k ∧ k ≤ 18 + c.ln.toNat then
          c.lp ||| (v.setWidth 32 <<< (8 * (k - 15 - c.ln.toNat)))
        else c.lp } := by
  cases c
  grind [Cursor.storeByte]

/-- Settles O27: the three tests of a turn, and the byte completed stored latch by latch. -/
theorem readStepEffect : Obligations.ReadStepEffect := by
  intro s c np hnp
  refine ⟨unpackStep_exhausted hnp, unpackStep_undef hnp, fun hci v hv => ⟨fun hbi => ?_, fun hbi => ?_⟩⟩
  · have hbit : c.bi + 1 ≠ 8 := by omega
    have hstep := unpackStep_bit hnp hci hv
    rw [s.readNext_of_bit v hbit, c.readNext_of_bit v hbit] at hstep
    refine ⟨hstep, fun hstay => hstep.trans (congrArg _ (transitions_stay 6 s ?_))⟩
    rw [Cursor.transition_stay_iff] at hstay ⊢
    exact hstay
  · have hbyte : c.bi + 1 = 8 := by omega
    rw [unpackStep_bit hnp hci hv, s.readNext_eq, s.readNext_fno, s.readNext_plo, c.readNext_of_byte v hbyte,
      Cursor.storeByte_eq]
    simp only [hbyte, true_and]

/-- Settles O28: a bit read keeps the phase, and each case of Transitions that goes on moves it forward. -/
theorem phaseOrder : Obligations.PhaseOrder := by
  intro s t c c' hph hstep hc'
  obtain ⟨np, -, ⟨-, rfl⟩ | ⟨-, v, -, rfl⟩⟩ := unpackStep_next hstep
  · cases hc'
  have hforward : ∀ a b : Cursor, a.ph.ofUnpack = true ∧ c.ph.rank ≤ a.ph.rank → a.transition = .moved b →
      b.ph.ofUnpack = true ∧ c.ph.rank ≤ b.ph.rank := fun a b ⟨_, hle⟩ hm => by
    have hrank := (Cursor.transition_moved_rank hm).1
    refine ⟨?_, by omega⟩
    rcases Cursor.transition_moved hm with ⟨-, -, -, rfl⟩ | ⟨-, -, -, rfl⟩ | ⟨-, -, rfl⟩ | ⟨-, -, rfl⟩ | ⟨-, -, rfl⟩ <;>
      rfl
  have hread : (c.readNext v).ph.ofUnpack = true ∧ c.ph.rank ≤ (c.readNext v).ph.rank := by
    rw [c.readNext_ph]
    exact ⟨hph, Nat.le_refl _⟩
  rcases transitions_end hforward (s.readNext c v) (fuel := 7) hread (by omega) with
    ⟨a, ha, -, heq⟩ | ⟨e, -, heq⟩ | ⟨a, -, -, heq⟩ <;> rw [heq] at hc'
  · cases hc'
    exact ha
  · cases hc'
  · cases hc'

end Sys2Proof.Machine
end

section
/-! PROOFS. The latches and the buffers in UNPACK's loop (R154, R157): what they hold of the stream after each byte. -/

namespace Sys2Proof.Machine

/-! ## The payload length, byte by byte -/

/-- The next byte of the payload length goes above those latched (R154). -/
theorem le32_or_shift {p : Word} {m i : Nat} (b : Byte) (hm : m < 4) (hp : p.toNat < 2 ^ (8 * m)) (hi : i ≤ m) :
    (le32 (p ||| (b.setWidth 32 <<< (8 * m))))[i]? = if i = m then some b else (le32 p)[i]? := by
  have hhigh : ∀ t, p.getLsbD (8 * m + t) = false := fun t =>
    Nat.testBit_lt_two_pow (hp.trans_le (Nat.pow_le_pow_right (by decide) (by omega)))
  rw [le32_getElem? _ (by omega)]
  split_ifs with him
  · subst him
    congr 1
    refine BitVec.eq_of_getLsbD_eq fun t ht => ?_
    simp only [BitVec.getLsbD_setWidth, BitVec.getLsbD_ushiftRight, BitVec.getLsbD_or, BitVec.getLsbD_shiftLeft, hhigh,
      Bool.false_or]
    simp [ht, show 8 * i + t < 32 by omega, show t < 32 by omega]
  · rw [le32_getElem? p (by omega)]
    congr 1
    refine BitVec.eq_of_getLsbD_eq fun t ht => ?_
    simp [ht, show 8 * i + t < 8 * m by omega]

theorem or_shift_lt {p : Word} {m : Nat} (b : Byte) (hp : p.toNat < 2 ^ (8 * m)) :
    (p ||| (b.setWidth 32 <<< (8 * m))).toNat < 2 ^ (8 * (m + 1)) := by
  rw [BitVec.toNat_or]
  refine Nat.or_lt_two_pow (hp.trans_le (Nat.pow_le_pow_right (by decide) (by omega))) ?_
  rw [BitVec.toNat_shiftLeft, Nat.shiftLeft_eq, BitVec.toNat_setWidth_of_le (by decide)]
  calc b.toNat * 2 ^ (8 * m) % 2 ^ 32 ≤ b.toNat * 2 ^ (8 * m) := Nat.mod_le ..
    _ < 2 ^ 8 * 2 ^ (8 * m) := Nat.mul_lt_mul_of_pos_right b.isLt (Nat.two_pow_pos _)
    _ = 2 ^ (8 * (m + 1)) := by rw [← Nat.pow_add]; congr 1; omega

/-! ## An output buffer -/

/-- The buffer holds the `n` bytes of the stream from byte `k` on, and nothing else (R154). -/
def FilledFrom (ch : Space) (d k n : Nat) (sp : Space) : Prop :=
  ∃ bs, streamBytes ch d k n = some bs ∧ sp = Space.undef.writeBytes 0 bs

theorem filledFrom_zero {ch sp : Space} {d k : Nat} : FilledFrom ch d k 0 sp ↔ sp = Space.undef := by
  simp [FilledFrom, streamBytes, Space.writeBytes]

/-- The next byte of the stream, stored next (R154). -/
theorem FilledFrom.succ {ch sp : Space} {d k n : Nat} {b : Byte} (h : FilledFrom ch d k n sp)
    (hb : streamByte ch d (k + n) = some b) : FilledFrom ch d k (n + 1) (sp.writeByte n b) := by
  obtain ⟨bs, hbs, rfl⟩ := h
  refine ⟨bs ++ [b], streamBytes_succ hbs hb, ?_⟩
  rw [Space.writeBytes_concat, streamBytes_length hbs, Nat.zero_add]

/-! ## The latches -/

/-- What UNPACK holds of the stream once `BC` bytes are complete: they are defined, and each stands where `StoreByte` put it
(R154). -/
structure Cursor.Latched (c : Cursor) (ch fno plo : Space) : Prop where
  known : ∀ j, j < 8 * c.bc → (streamBit ch c.ld.toNat j).isSome = true
  magic : c.mm = false ↔ ∀ k, k < 13 → k < c.bc → streamByte ch 1 k = some (Config.magic.getD k 0)
  depth : 14 ≤ c.bc → ∃ d : Byte, streamByte ch 1 13 = some d ∧ c.ld = d.setWidth 32
  fnlen : 15 ≤ c.bc → ∃ n : Byte, streamByte ch c.ld.toNat 14 = some n ∧ c.ln = n.setWidth 32
  plen : ∀ i, i < 4 → 15 + c.ln.toNat + i < c.bc →
    streamByte ch c.ld.toNat (15 + c.ln.toNat + i) = (le32 c.lp)[i]?
  plenBound : c.lp.toNat < 2 ^ (8 * (c.bc - (15 + c.ln.toNat)))
  name : FilledFrom ch c.ld.toNat 15 (min (c.bc - 15) c.ln.toNat) fno
  payload : FilledFrom ch c.ld.toNat (19 + c.ln.toNat) (c.bc - (19 + c.ln.toNat)) plo

/-- The phase and the counters inside the byte do not matter to what is latched. -/
theorem Cursor.Latched.of_eq {c c' : Cursor} {ch fno plo : Space} (h : c.Latched ch fno plo) (hbc : c'.bc = c.bc)
    (hmm : c'.mm = c.mm) (hld : c'.ld = c.ld) (hln : c'.ln = c.ln) (hlp : c'.lp = c.lp) : c'.Latched ch fno plo := by
  obtain ⟨h1, h2, h3, h4, h5, h6, h7, h8⟩ := h
  constructor <;> simp only [hbc, hmm, hld, hln, hlp] <;> assumption

/-- At its start UNPACK holds nothing (R150, R151). -/
theorem Cursor.create_latched (ch : Space) :
    (Cursor.create .readingMagic 0 0 0).Latched ch Space.undef Space.undef where
  known j hj := absurd hj (Nat.not_lt_zero j)
  magic := ⟨fun _ k _ hk => absurd hk (Nat.not_lt_zero k), fun _ => rfl⟩
  depth h := absurd h (by decide)
  fnlen h := absurd h (by decide)
  plen i _ h := absurd h (Nat.not_lt_zero _)
  plenBound := by decide
  name := filledFrom_zero.2 rfl
  payload := filledFrom_zero.2 rfl

/-- `c'` stands behind `c` with the byte `b` completed and stored (R154, R157). -/
structure Cursor.Stored (c c' : Cursor) (b : Byte) : Prop where
  bc : c'.bc = c.bc + 1
  mm : c'.mm = if c.bc ≤ 12 ∧ b ≠ Config.magic.getD c.bc 0 then true else c.mm
  ld : c'.ld = if c.bc = 13 then b.setWidth 32 else c.ld
  ln : c'.ln = if c.bc = 14 then b.setWidth 32 else c.ln
  lp : c'.lp = if 15 + c.ln.toNat ≤ c.bc ∧ c.bc ≤ 18 + c.ln.toNat then
      c.lp ||| (b.setWidth 32 <<< (8 * (c.bc - 15 - c.ln.toNat)))
    else c.lp

theorem Cursor.readNext_stored {c : Cursor} (v : Bool) (h : c.bi + 1 = 8) :
    c.Stored (c.readNext v) (setBit c.sh c.bi v) := by
  rw [c.readNext_of_byte v h, Cursor.storeByte_eq]
  exact ⟨rfl, rfl, rfl, rfl, rfl⟩

/-- After the filename length every byte leaves depth and filename length as they are (R154). -/
theorem Cursor.Stored.ld_ln {c c' : Cursor} {b : Byte} (hst : c.Stored c' b) (hbc : 15 ≤ c.bc) :
    c'.ld = c.ld ∧ c'.ln = c.ln := by
  rw [hst.ld, hst.ln, if_neg (by omega), if_neg (by omega)]
  exact ⟨rfl, rfl⟩

/-- The filename buffer with byte `BC` stored (R154). -/
def nameStored (c : Cursor) (b : Byte) (fno : Space) : Space :=
  if 15 ≤ c.bc ∧ c.bc ≤ 14 + c.ln.toNat then fno.writeByte (c.bc - 15) b else fno

/-- The payload buffer with byte `BC` stored (R154). -/
def payloadStored (c : Cursor) (b : Byte) (plo : Space) : Space :=
  if 19 + c.ln.toNat ≤ c.bc then plo.writeByte (c.bc - 19 - c.ln.toNat) b else plo

section
variable {c c' : Cursor} {ch fno plo : Space} {b : Byte} (h : c.Latched ch fno plo)
  (hb : streamByte ch c.ld.toNat c.bc = some b) (hst : c.Stored c' b)
include h hb hst

theorem Cursor.Latched.known_stored (j : Nat) (hj : j < 8 * c'.bc) : (streamBit ch c'.ld.toNat j).isSome = true := by
  rw [hst.bc] at hj
  have hbit : (streamBit ch c.ld.toNat j).isSome = true := by
    rcases Nat.lt_or_ge j (8 * c.bc) with hlt | hge
    · exact h.known j hlt
    · obtain ⟨t, rfl⟩ := Nat.exists_eq_add_of_le hge
      rw [gatherBits_bit (t := t) (Nat.le_refl 8) hb (by omega)]
      rfl
  rw [hst.ld]
  split_ifs with hbc
  · rw [streamBit_low _ (by omega)] at hbit ⊢
    exact hbit
  · exact hbit

theorem Cursor.Latched.magic_stored :
    c'.mm = false ↔ ∀ k, k < 13 → k < c'.bc → streamByte ch 1 k = some (Config.magic.getD k 0) := by
  rw [hst.mm, hst.bc]
  rcases Nat.lt_or_ge c.bc 13 with hlt | hge
  · have hbyte : streamByte ch 1 c.bc = some b := (streamByte_preamble ch 1 c.ld.toNat (by omega)).trans hb
    split_ifs with hne
    · refine ⟨nofun, fun hall => absurd (Option.some.inj (hbyte.symm.trans (hall _ hlt (Nat.lt_succ_self _)))) hne.2⟩
    · have heq : b = Config.magic.getD c.bc 0 := by
        by_contra hne'
        exact hne ⟨by omega, hne'⟩
      rw [h.magic]
      refine ⟨fun hall k hk hkbc => ?_, fun hall k hk hkbc => hall k hk (by omega)⟩
      rcases Nat.lt_succ_iff_lt_or_eq.1 hkbc with hlt' | rfl
      · exact hall k hk hlt'
      · rw [hbyte, heq]
  · rw [if_neg (by omega), h.magic]
    exact ⟨fun hall k hk _ => hall k hk (by omega), fun hall k hk _ => hall k hk (by omega)⟩

theorem Cursor.Latched.depth_stored (hbc : 14 ≤ c'.bc) :
    ∃ d : Byte, streamByte ch 1 13 = some d ∧ c'.ld = d.setWidth 32 := by
  rw [hst.bc] at hbc
  rw [hst.ld]
  split_ifs with h13
  · refine ⟨b, ?_, rfl⟩
    rw [streamByte_preamble ch 1 c.ld.toNat (by decide), ← h13, hb]
  · exact h.depth (by omega)

theorem Cursor.Latched.fnlen_stored (hbc : 15 ≤ c'.bc) :
    ∃ n : Byte, streamByte ch c'.ld.toNat 14 = some n ∧ c'.ln = n.setWidth 32 := by
  rw [hst.bc] at hbc
  rw [hst.ln, hst.ld, if_neg (by omega)]
  split_ifs with h14
  · exact ⟨b, h14 ▸ hb, rfl⟩
  · exact h.fnlen (by omega)

theorem Cursor.Latched.plen_stored (i : Nat) (hi : i < 4) (hbc : 15 + c'.ln.toNat + i < c'.bc) :
    streamByte ch c'.ld.toNat (15 + c'.ln.toNat + i) = (le32 c'.lp)[i]? := by
  rw [hst.bc] at hbc
  obtain ⟨hld, hln⟩ := hst.ld_ln (by omega)
  rw [hln] at hbc ⊢
  rw [hld, hst.lp]
  split_ifs with hrange
  · have hbound := h.plenBound
    rw [show c.bc - (15 + c.ln.toNat) = c.bc - 15 - c.ln.toNat by omega] at hbound
    rw [le32_or_shift b (by omega) hbound (by omega)]
    split_ifs with hlast
    · rw [show 15 + c.ln.toNat + i = c.bc by omega, hb]
    · exact h.plen i hi (by omega)
  · exact h.plen i hi (by omega)

omit hb in
theorem Cursor.Latched.plenBound_stored : c'.lp.toNat < 2 ^ (8 * (c'.bc - (15 + c'.ln.toNat))) := by
  have hbound := h.plenBound
  rw [hst.bc, hst.lp]
  split_ifs with hrange
  · rw [show c.bc - (15 + c.ln.toNat) = c.bc - 15 - c.ln.toNat by omega] at hbound
    rw [(hst.ld_ln (by omega)).2, show c.bc + 1 - (15 + c.ln.toNat) = c.bc - 15 - c.ln.toNat + 1 by omega]
    exact or_shift_lt b hbound
  · refine hbound.trans_le (Nat.pow_le_pow_right (by decide) ?_)
    rcases Nat.lt_or_ge c.bc 15 with hlt | hge
    · omega
    · rw [(hst.ld_ln hge).2]
      omega

theorem Cursor.Latched.name_stored :
    FilledFrom ch c'.ld.toNat 15 (min (c'.bc - 15) c'.ln.toNat) (nameStored c b fno) := by
  have hname := h.name
  unfold nameStored
  rw [hst.bc]
  rcases Nat.lt_or_ge c.bc 15 with hlt | hge
  · rw [show min (c.bc - 15) c.ln.toNat = 0 by omega, filledFrom_zero] at hname
    rw [show min (c.bc + 1 - 15) c'.ln.toNat = 0 by omega, filledFrom_zero, if_neg (by omega), hname]
  · obtain ⟨hld, hln⟩ := hst.ld_ln hge
    rw [hld, hln]
    split_ifs with hrange
    · rw [show min (c.bc - 15) c.ln.toNat = c.bc - 15 by omega] at hname
      rw [show min (c.bc + 1 - 15) c.ln.toNat = c.bc - 15 + 1 by omega]
      exact hname.succ (by rw [show 15 + (c.bc - 15) = c.bc by omega, hb])
    · rwa [show min (c.bc + 1 - 15) c.ln.toNat = min (c.bc - 15) c.ln.toNat by omega]

theorem Cursor.Latched.payload_stored :
    FilledFrom ch c'.ld.toNat (19 + c'.ln.toNat) (c'.bc - (19 + c'.ln.toNat)) (payloadStored c b plo) := by
  have hpayload := h.payload
  unfold payloadStored
  rw [hst.bc]
  rcases Nat.lt_or_ge c.bc 15 with hlt | hge
  · rw [show c.bc - (19 + c.ln.toNat) = 0 by omega, filledFrom_zero] at hpayload
    rw [show c.bc + 1 - (19 + c'.ln.toNat) = 0 by omega, filledFrom_zero, if_neg (by omega), hpayload]
  · obtain ⟨hld, hln⟩ := hst.ld_ln hge
    rw [hld, hln]
    split_ifs with hrange
    · rw [show c.bc + 1 - (19 + c.ln.toNat) = c.bc - 19 - c.ln.toNat + 1 by omega]
      rw [show c.bc - (19 + c.ln.toNat) = c.bc - 19 - c.ln.toNat by omega] at hpayload
      exact hpayload.succ (by rw [show 19 + c.ln.toNat + (c.bc - 19 - c.ln.toNat) = c.bc by omega, hb])
    · rwa [show c.bc + 1 - (19 + c.ln.toNat) = c.bc - (19 + c.ln.toNat) by omega]

/-- A byte completed is a byte latched (R154). -/
theorem Cursor.Latched.stored : c'.Latched ch (nameStored c b fno) (payloadStored c b plo) where
  known := h.known_stored hb hst
  magic := h.magic_stored hb hst
  depth := h.depth_stored hb hst
  fnlen := h.fnlen_stored hb hst
  plen := h.plen_stored hb hst
  plenBound := h.plenBound_stored hst
  name := h.name_stored hb hst
  payload := h.payload_stored hb hst

end

end Sys2Proof.Machine
end

section
/-! PROOFS. The loop of UNPACK (R150, R157, R160, R171): bit by bit it comes to the ending of the closed form. -/

namespace Sys2Proof.Machine

/-! ## The ending, from what is latched -/

/-- A bit stands inside the stream exactly when the stream holds it, in the preamble at whatever depth (R76, R171). -/
theorem place_lt_iff_of_body {j len d : Nat} (hd : 112 ≤ j → 1 ≤ d) :
    (place j d).1 < len ↔ j < streamBits len d := by
  rcases Nat.lt_or_ge j 112 with hj | hj
  · rw [place_of_lt d hj]
    refine ⟨lt_streamBits_preamble hj, fun h => ?_⟩
    unfold streamBits Config.preambleChannels at h
    dsimp only
    split_ifs at h <;> omega
  · exact place_lt_iff (hd hj)

section
variable {c : Cursor} {ch fno plo : Space} (h : c.Latched ch fno plo)
include h

theorem Cursor.Latched.magicAt (hmm : c.mm = false) (hbc : 13 ≤ c.bc) : MagicAt ch := fun k hk =>
  h.magic.1 hmm k hk (by omega)

/-- The latched depth is the depth byte (R154). -/
theorem Cursor.Latched.depthByte (hbc : 14 ≤ c.bc) :
    ∃ d : Byte, streamByte ch 1 13 = some d ∧ c.ld = d.setWidth 32 ∧ c.ld.toNat = d.toNat := by
  obtain ⟨d, hd, hld⟩ := h.depth hbc
  exact ⟨d, hd, hld, by rw [hld, BitVec.toNat_setWidth_of_le (by decide)]⟩

theorem Cursor.Latched.fnlenByte (hbc : 15 ≤ c.bc) :
    ∃ n : Byte, streamByte ch c.ld.toNat 14 = some n ∧ c.ln = n.setWidth 32 ∧ c.ln.toNat = n.toNat := by
  obtain ⟨n, hn, hln⟩ := h.fnlen hbc
  exact ⟨n, hn, hln, by rw [hln, BitVec.toNat_setWidth_of_le (by decide)]⟩

/-- The whole filename read (R164). -/
theorem Cursor.Latched.nameBytes (hbc : 15 + c.ln.toNat ≤ c.bc) :
    ∃ name, streamBytes ch c.ld.toNat 15 c.ln.toNat = some name ∧ fno = Space.undef.writeBytes 0 name := by
  have hname := h.name
  rwa [show min (c.bc - 15) c.ln.toNat = c.ln.toNat by omega] at hname

/-- The whole payload length read (R165). -/
theorem Cursor.Latched.plenBytes (hbc : 19 + c.ln.toNat ≤ c.bc) :
    streamBytes ch c.ld.toNat (15 + c.ln.toNat) 4 = some (le32 c.lp) :=
  streamBytes_of_getElem? rfl fun i hi => h.plen i hi (by omega)

/-- The magic byte that differs (R161, R168). -/
theorem Cursor.Latched.unpackStream_magicMismatch {len : Nat} (hlen : 104 ≤ len) (hbc : c.bc = 13)
    (hmm : c.mm = true) : unpackStream ch len = .error .magicMismatch := by
  refine unpackStream_of_not_magic hlen (fun j hj => ?_) fun hmagic => ?_
  · have hbit := h.known j (by omega)
    rwa [streamBit_low _ (by omega)] at hbit ⊢
  · have hfalse := h.magic.2 fun k hk _ => hmagic k hk
    rw [hmm] at hfalse
    cases hfalse

/-- The depth byte out of range (R162, R168). -/
theorem Cursor.Latched.unpackStream_invalidBitDepth {len : Nat} (hlen : 112 ≤ len) (hbc : c.bc = 14)
    (hmm : c.mm = false) (hillegal : ¬ legalDepth c.ld.toNat) : unpackStream ch len = .error .invalidBitDepth := by
  obtain ⟨d, hd, -, hld⟩ := h.depthByte (by omega)
  exact unpackStream_of_illegal_depth (h.magicAt hmm (by omega)) hlen hd (hld ▸ hillegal)

/-- With the last payload byte stored the stream holds the record latched (R166, R169). -/
theorem Cursor.Latched.exists_recordAt {len : Nat} (hmm : c.mm = false) (hd : legalDepth c.ld.toNat)
    (hbc : c.bc = 19 + c.ln.toNat + c.lp.toNat)
    (hroom : used c.ld.toNat (bodyBytes c.ln.toNat c.lp.toNat) ≤ len) :
    ∃ d n name payload, RecordAt ch len d n name c.lp payload ∧ c.ld = d.setWidth 32 ∧ c.ln = n.setWidth 32 ∧
      fno = Space.undef.writeBytes 0 name ∧ plo = Space.undef.writeBytes 0 payload := by
  obtain ⟨d, hdepth, hld, hld'⟩ := h.depthByte (by omega)
  obtain ⟨n, hfnlen, hln, hln'⟩ := h.fnlenByte (by omega)
  obtain ⟨name, hname, hfno⟩ := h.nameBytes (by omega)
  have hplen := h.plenBytes (by omega)
  obtain ⟨payload, hpayload, hplo⟩ := h.payload
  rw [show c.bc - (19 + c.ln.toNat) = c.lp.toNat by omega] at hpayload
  rw [hld'] at hd hroom hfnlen hname hplen hpayload
  rw [hln'] at hroom hname hplen hpayload
  exact ⟨d, n, name, payload, ⟨h.magicAt hmm (by omega), hdepth, hd, hfnlen, hname, hplen, hpayload, hroom⟩,
    hld, hln, hfno, hplo⟩

end

/-! ## The cursor in the loop -/

/-- UNPACK's cursor on a stream `ch` of `np` pixels after `j` bits (R50, R157), the output buffers being `fno` and `plo`. -/
structure Cursor.ReadAt (c : Cursor) (cfg : Config.Params) (np : Word) (ch fno plo : Space) (j : Nat) : Prop where
  ph : c.ph.ofUnpack = true
  phase : c.PhaseOk
  inStream : c.InStream cfg np
  bits : c.bitsDone = j
  room : j ≤ streamBits (streamLen np) c.ld.toNat
  passed : c.ph ≠ .readingMagic → c.mm = false
  byte : gatherBits ch c.ld.toNat (8 * c.bc) c.bi = some c.sh
  latched : c.Latched ch fno plo

theorem Cursor.create_readAt {cfg : Config.Params} {np : Word} (ch : Space) (hnp : np.toNat ≤ cfg.numpixMax) :
    (Cursor.create .readingMagic 0 0 0).ReadAt cfg np ch Space.undef Space.undef 0 :=
  ⟨rfl, Cursor.create_unpack_phaseOk, Cursor.create_inStream _ _ _ _ hnp, rfl, Nat.zero_le _, fun h => absurd rfl h,
    rfl, Cursor.create_latched ch⟩

section
variable {c : Cursor} {cfg : Config.Params} {np : Word} {ch fno plo : Space} {j : Nat}
  (h : c.ReadAt cfg np ch fno plo j)
include h

theorem Cursor.ReadAt.count : 8 * c.bc + c.bi = j ∧ c.bi < 8 := by
  obtain ⟨-, -, hbi, -⟩ := h.inStream
  exact ⟨h.bits, hbi⟩

theorem Cursor.ReadAt.legal (hj : 112 ≤ j) : legalDepth c.ld.toNat := by
  have hcount := h.count
  exact h.phase.legalDepth_of_body h.ph (by omega)

theorem Cursor.ReadAt.place : (c.ci, c.bp) = place j c.ld.toNat := by
  obtain ⟨-, -, -, hplaced⟩ := h.inStream
  rw [← h.bits]
  exact ((c.placed_iff _).1 hplaced).2

/-- The test of R156 in bits: the stream holds no more of them. -/
theorem Cursor.ReadAt.ci_eq_iff : c.ci = streamLen np ↔ j = streamBits (streamLen np) c.ld.toNat := by
  obtain ⟨-, hle, -, -⟩ := h.inStream
  have hlt := place_lt_iff_of_body (len := streamLen np) fun hj => (h.legal hj).1
  rw [← h.place] at hlt
  have hroom := h.room
  dsimp only at hlt
  omega

theorem Cursor.ReadAt.known (i : Nat) (hi : i < j) : (streamBit ch c.ld.toNat i).isSome = true := by
  have hcount := h.count
  rcases Nat.lt_or_ge i (8 * c.bc) with hlt | hge
  · exact h.latched.known i hlt
  · obtain ⟨t, rfl⟩ := Nat.exists_eq_add_of_le hge
    rw [gatherBits_bit (t := t) (by omega) h.byte (by omega)]
    rfl

/-- Behind the reading of the magic its thirteen bytes are complete (R152). -/
theorem Cursor.ReadAt.le_bc (hph : c.ph ≠ .readingMagic) : 13 ≤ c.bc := by
  have hphase := h.phase
  have hup := h.ph
  unfold Cursor.PhaseOk at hphase
  cases hp : c.ph <;> simp only [hp, Phase.ofUnpack, Bool.false_eq_true] at hphase hup
  case readingMagic => exact absurd hp hph
  all_goals omega

theorem Cursor.ReadAt.magicAt (hph : c.ph ≠ .readingMagic) : MagicAt ch :=
  h.latched.magicAt (h.passed hph) (h.le_bc hph)

/-- At the end of the stream all of it has been read (R156). -/
theorem Cursor.ReadAt.allKnown (hend : j = streamBits (streamLen np) c.ld.toNat) :
    AllKnown ch (streamLen np) c.ld.toNat :=
  bitsKnown_eq_true.2 fun i hi => by
    rw [Nat.zero_add]
    exact h.known i (hend ▸ hi)

/-- While the magic is read at most 104 bits have been (R152). -/
theorem Cursor.ReadAt.ph_ne_magic (hj : 104 ≤ j) : c.ph ≠ .readingMagic := fun hp => by
  have hphase := h.phase
  have hcount := h.count
  rw [Cursor.PhaseOk, hp] at hphase
  dsimp only at hphase
  omega

/-- While UNPACK runs the payload is not read to its end (R152, R166). -/
theorem Cursor.ReadAt.bc_lt_end (hbc : 19 + c.ln.toNat ≤ c.bc) : c.bc < 19 + c.ln.toNat + c.lp.toNat := by
  have hphase := h.phase
  have hph := h.ph
  unfold Cursor.PhaseOk at hphase
  cases hp : c.ph <;> simp only [hp, Phase.ofUnpack, Bool.false_eq_true] at hphase hph <;> omega

theorem Cursor.ReadAt.le_streamLen (hj : 112 ≤ j) : 112 ≤ streamLen np := by
  have hroom := h.room
  unfold streamBits Config.preambleChannels at hroom
  split_ifs at hroom <;> omega

/-- The end of the stream before or in the depth byte (R156, R168). -/
theorem Cursor.ReadAt.unpackStream_truncated_preamble (hend : j = streamBits (streamLen np) c.ld.toNat)
    (hj : j < 112) : unpackStream ch (streamLen np) = .error .truncatedStream := by
  have hlen : streamLen np = j := by
    unfold streamBits Config.preambleChannels at hend
    split_ifs at hend <;> omega
  have hknown : AllKnown ch (streamLen np) 1 := bitsKnown_eq_true.2 fun i hi => by
    have hij : i < j := by
      unfold streamBits Config.preambleChannels at hi
      split_ifs at hi <;> omega
    have hbit := h.known i hij
    rw [streamBit_low _ (by omega)] at hbit
    rwa [Nat.zero_add, streamBit_low _ (by omega)]
  rcases Nat.lt_or_ge j 104 with hmagic | hmagic
  · rw [unpackStream, if_pos (show streamLen np < 8 * Config.magicLen from hlen ▸ hmagic), hknown.truncated]
  · rw [unpackStream_of_magic (h.magicAt (h.ph_ne_magic hmagic)) (by omega), unpackDepth,
      if_pos (show streamLen np < Config.preambleChannels from hlen ▸ hj), hknown.truncated]

/-- The end of the stream in the body (R156, R168): it lies before the boundary of the phase (R152). -/
theorem Cursor.ReadAt.unpackStream_truncated_body (hend : j = streamBits (streamLen np) c.ld.toNat)
    (hj : 112 ≤ j) : unpackStream ch (streamLen np) = .error .truncatedStream := by
  obtain ⟨hbits, hbi⟩ := h.count
  obtain ⟨d, hdepth, -, hld⟩ := h.latched.depthByte (by omega)
  have hd := h.legal hj
  have hknown := h.allKnown hend
  have hfits := fun r (hr : 1 ≤ r) => used_le_iff_bits (streamLen np) hd.1 hr
  have hlast := h.bc_lt_end
  rw [← hend] at hfits
  rw [hld] at hknown hfits hd
  rw [unpackStream_of_depth (h.magicAt (h.ph_ne_magic (by omega))) (h.le_streamLen hj) hdepth hd]
  by_cases hfnlen : streamLen np < used d.toNat 1
  · rw [unpackBody, if_pos hfnlen, hknown.truncated]
  have hbc := (hfits 1 (by decide)).1 (Nat.not_lt.1 hfnlen)
  obtain ⟨n, hn, -, hln⟩ := h.latched.fnlenByte (by omega)
  rw [unpackBody_of_fnlen (Nat.not_lt.1 hfnlen) (hld ▸ hn)]
  by_cases hlengths : streamLen np < used d.toNat (bodyBytes n.toNat 0)
  · rw [unpackLengths, if_pos hlengths, hknown.truncated]
  have hbc := (hfits (bodyBytes n.toNat 0) (by unfold bodyBytes; omega)).1 (Nat.not_lt.1 hlengths)
  unfold bodyBytes at hbc
  obtain ⟨name, hname, -⟩ := h.latched.nameBytes (by omega)
  have hplen := h.latched.plenBytes (by omega)
  rw [hld, hln] at hname hplen
  rw [unpackLengths_of_plen (Nat.not_lt.1 hlengths) hplen hname, unpackPayload, if_pos, hknown.truncated]
  rw [← Nat.not_le, hfits _ (by unfold bodyBytes; omega)]
  unfold bodyBytes
  omega

/-- Where the stream ends, the closed form fails with `TruncatedStream` (R156, R168). -/
theorem Cursor.ReadAt.unpackStream_truncated (hci : c.ci = streamLen np) :
    unpackStream ch (streamLen np) = .error .truncatedStream := by
  have hend := h.ci_eq_iff.1 hci
  rcases Nat.lt_or_ge j 112 with hj | hj
  · exact h.unpackStream_truncated_preamble hend hj
  · exact h.unpackStream_truncated_body hend hj

/-- Where the next bit is `undef`, the closed form is refused (R21, R168). -/
theorem Cursor.ReadAt.unpackStream_undef (hlt : j < streamBits (streamLen np) c.ld.toNat)
    (hb : streamBit ch c.ld.toNat j = none) : unpackStream ch (streamLen np) = .undef := by
  obtain ⟨hbits, hbi⟩ := h.count
  rcases Nat.lt_or_ge j 112 with hj | hj
  · have hlen : j < streamLen np := by
      have := (place_lt_iff_of_body fun hj => (h.legal hj).1).2 hlt
      rwa [place_of_lt _ hj] at this
    rw [streamBit_low _ hj] at hb
    rcases Nat.lt_or_ge j 104 with hmagic | hmagic
    · exact unpackStream_undef_magic hmagic hlen hb
    · exact unpackStream_undef_depth (h.magicAt (h.ph_ne_magic hmagic)) hj hlen hb
  have hmagic := h.magicAt (h.ph_ne_magic (by omega))
  have hd := h.legal hj
  obtain ⟨d, hdepth, -, hld⟩ := h.latched.depthByte (by omega)
  have hplen := h.latched.plen
  have hlast := h.bc_lt_end
  rw [hld] at hd hlt hb hplen
  rcases Nat.lt_or_ge c.bc 15 with hbc | hbc
  · exact unpackStream_undef_fnlen hmagic hdepth hd hlt hb (by omega)
  obtain ⟨n, hn, -, hln⟩ := h.latched.fnlenByte hbc
  rw [hld] at hn
  rw [hln] at hplen hlast
  rcases Nat.lt_or_ge c.bc (19 + n.toNat) with hbc | hbc
  · exact unpackStream_undef_lengths hmagic hdepth hd hlt hb hn (by omega)
  have hbyte : ∀ i, i < 4 → streamByte ch d.toNat (15 + i + n.toNat) = (le32 c.lp)[i]? := fun i hi => by
    rw [Nat.add_right_comm]
    exact hplen i hi (by omega)
  refine unpackStream_undef_payload hmagic hdepth hd hlt hb hn (hbyte 0 (by decide)) (hbyte 1 (by decide))
    (hbyte 2 (by decide)) (hbyte 3 (by decide)) ?_
  rw [unLe32_le32, totalBytes]
  omega

end

/-! ## One turn -/

/-- `Transitions` keeps what each of its cases keeps. Unlike in `transitions_end` the cursor at which a case fails is named:
it says why the command fails (R160). -/
theorem transitions_outcome {P : Cursor → Prop} (hmoved : ∀ c c', P c → c.transition = .moved c' → P c') (s : State)
    {fuel : Nat} {c : Cursor} (hc : P c) (hfuel : 6 < fuel + c.ph.rank) :
    ∃ c', P c' ∧
      ((c'.transition = .stay ∧ transitions fuel s c = { s with cursor := some c' }) ∨
       (∃ e, c'.transition = .failed e ∧ transitions fuel s c = s.dropOutput.fail e) ∨
       (c'.transition = .finished ∧ transitions fuel s c = s.finishUnpack c')) := by
  induction fuel generalizing c with
  | zero => cases hp : c.ph <;> simp [hp, Phase.rank] at hfuel
  | succ fuel ih =>
    simp only [transitions]
    cases ht : c.transition with
    | moved c' =>
      have hrank := (Cursor.transition_moved_rank ht).1
      exact ih (hmoved c c' hc ht) (by omega)
    | failed e => exact ⟨c, hc, .inr (.inl ⟨e, ht, rfl⟩)⟩
    | finished => exact ⟨c, hc, .inr (.inr ⟨ht, rfl⟩)⟩
    | stay => exact ⟨c, hc, .inl ⟨ht, rfl⟩⟩

/-- Why Transitions fails (R161, R162). -/
theorem Cursor.transition_failed_cases {c : Cursor} {e : ErrKind} (h : c.transition = .failed e) :
    (c.ph = .readingMagic ∧ c.bc = 13 ∧ c.mm = true ∧ e = .magicMismatch) ∨
    (c.ph = .readingBitDepth ∧ c.bc = 14 ∧ ¬ legalDepth c.ld.toNat ∧ e = .invalidBitDepth) := by
  unfold Cursor.transition at h
  cases hp : c.ph <;> simp only [hp] at h
  case readingMagic =>
    split_ifs at h with hbc hmm
    cases h
    exact .inl ⟨rfl, hbc, hmm, rfl⟩
  case readingBitDepth =>
    split_ifs at h with hbc hd
    cases h
    exact .inr ⟨rfl, hbc, by unfold legalDepth; omega, rfl⟩
  case packPreamble | packBody | capCompute => cases h
  case readingFilenameLength | readingFilename | readingPayloadLength | readingPayload => split_ifs at h

/-- UNPACK's cursor in the `Transitions` after a `ReadStep`: as `c`, which the `ReadStep` left, but for the phase and the
active depth (R160). -/
structure Cursor.Settling (c c' : Cursor) : Prop where
  readOk : c'.ReadOk
  same : c' = { c with ph := c'.ph, ad := c'.ad }
  passed : c'.ph ≠ .readingMagic → c'.mm = false

theorem Cursor.Settling.moved {c a b : Cursor} (h : c.Settling a) (hm : a.transition = .moved b) : c.Settling b := by
  have hsame := Cursor.transition_moved_eq hm
  rw [h.same] at hsame
  refine ⟨h.readOk.moved hm, hsame, fun _ => ?_⟩
  have hpassed := h.passed
  rcases Cursor.transition_moved hm with ⟨-, -, hmm, rfl⟩ | ⟨hp, -, -, rfl⟩ | ⟨hp, -, rfl⟩ | ⟨hp, -, rfl⟩ |
    ⟨hp, -, rfl⟩
  · exact hmm
  all_goals exact hpassed (by rw [hp]; decide)

/-- The state in UNPACK's loop: the output buffers as far as they are filled, and the cursor. -/
def State.reading (s : State) (fno plo : Space) (c : Cursor) : State :=
  { s with fno := fno, plo := plo, cursor := some c }

section
variable {c : Cursor} {cfg : Config.Params} {np : Word} {ch : Space} {j : Nat} {s : State} {v : Bool}
  (h : c.ReadAt cfg np ch s.fno s.plo j)
include h

theorem Cursor.ReadAt.readNext_settling (v : Bool) : (c.readNext v).Settling (c.readNext v) := by
  obtain ⟨-, -, hbi, hplaced⟩ := h.inStream
  refine ⟨Cursor.readNext_readOk v h.ph h.phase ?_, rfl, fun hph => ?_⟩
  · rw [h.phase.phaseDepth_eq h.ph hbi]
    exact ((c.placed_iff _).1 hplaced).1
  · rw [c.readNext_ph] at hph
    have hbc := h.le_bc hph
    by_cases hbyte : c.bi + 1 = 8
    · rw [(Cursor.readNext_stored v hbyte).mm, if_neg (by omega), h.passed hph]
    · rw [c.readNext_mm v hbyte, h.passed hph]

/-- The bit read goes into the byte in progress (R157). -/
theorem Cursor.ReadAt.gatherBits_succ (hv : streamBit ch c.ld.toNat j = some v) :
    gatherBits ch c.ld.toNat (8 * c.bc) (c.bi + 1) = some (setBit c.sh c.bi v) := by
  rw [← h.count.1] at hv
  simp only [gatherBits, h.byte, hv]

theorem Cursor.ReadAt.readNext_latched (hv : streamBit ch c.ld.toNat j = some v) :
    (c.readNext v).Latched ch (s.readNext c v).fno (s.readNext c v).plo := by
  have hgather := h.gatherBits_succ hv
  by_cases hbyte : c.bi + 1 = 8
  · rw [hbyte] at hgather
    rw [s.readNext_fno, s.readNext_plo]
    simp only [hbyte, true_and]
    exact h.latched.stored hgather (Cursor.readNext_stored v hbyte)
  · rw [s.readNext_of_bit v hbyte, c.readNext_of_bit v hbyte]
    exact h.latched.of_eq rfl rfl rfl rfl rfl

theorem Cursor.ReadAt.readNext_byte (hv : streamBit ch c.ld.toNat j = some v) :
    gatherBits ch (c.readNext v).ld.toNat (8 * (c.readNext v).bc) (c.readNext v).bi = some (c.readNext v).sh := by
  by_cases hbyte : c.bi + 1 = 8
  · rw [c.readNext_of_byte v hbyte]
    rfl
  · rw [c.readNext_of_bit v hbyte]
    exact h.gatherBits_succ hv

/-- The stream holds the bit read also at the depth it may complete (R171). -/
theorem Cursor.ReadAt.readNext_room (v : Bool) (hlt : j < streamBits (streamLen np) c.ld.toNat) :
    j + 1 ≤ streamBits (streamLen np) (c.readNext v).ld.toNat := by
  obtain ⟨hbits, hbi⟩ := h.count
  rw [c.readNext_ld]
  split_ifs with hdepth
  · unfold streamBits Config.preambleChannels at hlt ⊢
    split_ifs at hlt ⊢ <;> omega
  · exact hlt

variable {c' : Cursor} (hlt : j < streamBits (streamLen np) c.ld.toNat) (hv : streamBit ch c.ld.toNat j = some v)
  (hset : (c.readNext v).Settling c')
include hv hset

theorem Cursor.ReadAt.settled_latched : c'.Latched ch (s.readNext c v).fno (s.readNext c v).plo := by
  refine (h.readNext_latched hv).of_eq ?_ ?_ ?_ ?_ ?_ <;> rw [hset.same]

include hlt

omit hv in
theorem Cursor.ReadAt.settled_room : c'.bitsDone = j + 1 ∧ j + 1 ≤ streamBits (streamLen np) c'.ld.toNat := by
  rw [hset.same]
  exact ⟨(c.readNext_advances v).bitsDone.trans (by rw [h.bits]), h.readNext_room v hlt⟩

/-- Where no case of Transitions applies the loop goes on at the next bit (R50, R157). -/
theorem Cursor.ReadAt.settled_stay (hstay : c'.transition = .stay) :
    c'.ReadAt cfg np ch (s.readNext c v).fno (s.readNext c v).plo (j + 1) := by
  obtain ⟨hnp, hle, hbi, hplaced⟩ := h.inStream
  have hadv := c.readNext_advances v
  obtain ⟨hphase, hph⟩ := hset.readOk.stay hstay
  obtain ⟨hbits, hroom⟩ := h.settled_room hlt hset
  have hbi' : c'.bi < 8 := by rw [hset.same]; exact hadv.bi_lt hbi
  have hci' : c'.ci ≤ streamLen np := by
    rw [hset.same]
    exact hadv.ci_le hle fun hci => (h.ci_eq_iff.1 hci).not_lt hlt
  have hplace' : (c'.ci, c'.bp) = Machine.place c'.bitsDone c'.ld.toNat := by
    rw [hset.same]
    exact Cursor.readNext_place v h.ph h.phase hbi hplaced
  have had' := hset.readOk.1.trans (hphase.phaseDepth_eq hph hbi')
  exact ⟨hph, hphase, ⟨hnp, hci', hbi', (c'.placed_iff _).2 ⟨had', hplace'⟩⟩, hbits, hroom, hset.passed,
    by rw [hset.same]; exact h.readNext_byte hv, h.settled_latched hv hset⟩

/-- Where a case of Transitions fails the closed form does (R161, R162, R168). -/
theorem Cursor.ReadAt.settled_failed {e : ErrKind} (hfail : c'.transition = .failed e) :
    unpackStream ch (streamLen np) = .error e := by
  have hlatched := h.settled_latched hv hset
  obtain ⟨hbits, hroom⟩ := h.settled_room hlt hset
  have hlen : c'.bc ≤ 14 → 8 * c'.bc ≤ streamLen np := fun hbc => by
    unfold Cursor.bitsDone at hbits
    unfold streamBits Config.preambleChannels at hroom
    split_ifs at hroom <;> omega
  rcases Cursor.transition_failed_cases hfail with ⟨-, hbc, hmm, rfl⟩ | ⟨hp, hbc, hd, rfl⟩
  · exact hlatched.unpackStream_magicMismatch (by have := hlen (by omega); omega) hbc hmm
  · exact hlatched.unpackStream_invalidBitDepth (by have := hlen (by omega); omega) hbc
      (hset.passed (by rw [hp]; decide)) hd

/-- Where Transitions ends the command the stream holds the record latched (R166, R169). -/
theorem Cursor.ReadAt.settled_finished (hfin : c'.transition = .finished) :
    ∃ d n name payload, RecordAt ch (streamLen np) d n name c'.lp payload ∧ c'.ld = d.setWidth 32 ∧
      c'.ln = n.setWidth 32 ∧ (s.readNext c v).fno = Space.undef.writeBytes 0 name ∧
      (s.readNext c v).plo = Space.undef.writeBytes 0 payload := by
  obtain ⟨hp, hbc⟩ := Cursor.transition_finished hfin
  obtain ⟨hbits, hroom⟩ := h.settled_room hlt hset
  obtain ⟨-, hok⟩ := hset.readOk
  rw [hp] at hok
  obtain ⟨hd, -, -, -⟩ := hok
  refine (h.settled_latched hv hset).exists_recordAt (hset.passed (by rw [hp]; decide)) hd hbc ?_
  rw [used_le_iff_bits _ hd.1 (by unfold bodyBytes; omega)]
  unfold Cursor.bitsDone at hbits
  unfold bodyBytes
  omega

end

/-- One turn of the loop ends the command as the closed form does, or goes on at the next bit (R157, R160, R168). -/
theorem unpackStep_reading {s : State} {c : Cursor} {np : Word} {fno plo : Space} {j : Nat}
    (hnp : s.numpix = Reg.holds np) (h : c.ReadAt s.cfg np s.ch fno plo j) :
    unpackStep (s.dropOutput.reading fno plo c) c = unpackRead s.dropOutput np ∨
    ∃ fno' plo' c', unpackStep (s.dropOutput.reading fno plo c) c = .next (s.dropOutput.reading fno' plo' c') ∧
      c'.ReadAt s.cfg np s.ch fno' plo' (j + 1) ∧ j < streamBits (streamLen np) c.ld.toNat := by
  have hnp' : (s.dropOutput.reading fno plo c).numpix = Reg.holds np := hnp
  by_cases hci : c.ci = streamLen np
  · rw [unpackStep_exhausted hnp' hci, unpackRead_error (s := s.dropOutput) (h.unpackStream_truncated hci)]
    exact .inl rfl
  have hlt : j < streamBits (streamLen np) c.ld.toNat := lt_of_le_of_ne h.room (mt h.ci_eq_iff.2 hci)
  have hbit : streamBit s.ch c.ld.toNat j = s.ch.readBit c.ci c.bp := by rw [streamBit, ← h.place]
  cases hv : streamBit s.ch c.ld.toNat j with
  | none =>
    rw [unpackStep_undef hnp' hci (hbit.symm.trans hv),
      unpackRead_undef (s := s.dropOutput) (h.unpackStream_undef hlt hv)]
    exact .inl rfl
  | some v =>
    rw [unpackStep_bit hnp' hci (hbit.symm.trans hv)]
    generalize hst : s.dropOutput.reading fno plo c = st
    have hr : c.ReadAt s.cfg np s.ch st.fno st.plo j := by rw [← hst]; exact h
    obtain ⟨c', hset, ⟨hstay, heq⟩ | ⟨e, hfail, heq⟩ | ⟨hfin, heq⟩⟩ :=
      transitions_outcome (P := (c.readNext v).Settling) (fun _ _ ha hm => ha.moved hm) (st.readNext c v)
        (fuel := 7) (hr.readNext_settling v) (by omega)
    · refine .inr ⟨(st.readNext c v).fno, (st.readNext c v).plo, c', ?_, hr.settled_stay hlt hv hset hstay, hlt⟩
      rw [heq, st.readNext_eq, ← hst]
      rfl
    · rw [heq, unpackRead_error (s := s.dropOutput) (hr.settled_failed hlt hv hset hfail), st.readNext_eq, ← hst]
      exact .inl rfl
    · obtain ⟨d, n, name, payload, hrecord, hld, hln, hfno, hplo⟩ := hr.settled_finished hlt hv hset hfin
      rw [heq, unpackRead_record (s := s.dropOutput) hrecord, st.readNext_eq, hfno, hplo, ← hst, State.finishUnpack,
        hld, hln]
      exact .inl rfl

/-! ## The loop -/

/-- The engine in a phase of UNPACK. -/
theorem engineStep_unpack {s : State} {c : Cursor} (hc : s.cursor = some c) (hph : c.ph.ofUnpack = true) :
    engineStep s = unpackStep s c := by
  unfold engineStep
  cases hp : c.ph <;> simp [hp, Phase.ofUnpack] at hph <;> simp [hc, hp]

theorem runEngine_idle {s : State} (fuel : Nat) (hidle : s.cursor = none) : runEngine fuel s = .next s := by
  cases fuel with
  | zero => rfl
  | succ fuel => simp [runEngine, State.busy, hidle]

/-- A step that ends UNPACK ends the run (R204, R205). -/
theorem runEngine_unpackRead {s s0 : State} {np : Word} (fuel : Nat) (hrun : s.busy = true)
    (h : engineStep s = unpackRead s0 np) : runEngine (fuel + 1) s = unpackRead s0 np := by
  cases hread : unpackRead s0 np with
  | next t =>
    have hidle : t.cursor = none := by
      rcases unpackRead_next hread with ⟨e, -, rfl⟩ | ⟨d, n, name, p, payload, -, rfl⟩ <;> rfl
    rw [runEngine_next fuel hrun (h.trans hread), runEngine_idle fuel hidle]
  | fault f =>
    rw [runEngine, if_pos hrun, h, hread]
  | refused r => exact runEngine_refused fuel hrun (h.trans hread)

/-- The bound of R171: no legal depth takes more bits from the stream. -/
def readBound (len : Nat) : Nat := min len 112 + (len - 112) * 8

theorem lt_readBound {j len d : Nat} (hj : j < streamBits len d) (hd : 112 ≤ j → d ≤ 8) : j < readBound len := by
  unfold streamBits Config.preambleChannels at hj
  unfold readBound
  rcases Nat.lt_or_ge j 112 with hlt | hge
  · split_ifs at hj <;> omega
  · have hle : (len - 112) * d ≤ (len - 112) * 8 := Nat.mul_le_mul_left _ (hd hge)
    split_ifs at hj <;> omega

/-- The loop comes to the ending of the closed form within the bound (R168, R169, R171). -/
theorem runEngine_reading {s : State} {np : Word} (hnp : s.numpix = Reg.holds np) {count j : Nat} {c : Cursor}
    {fno plo : Space} (h : c.ReadAt s.cfg np s.ch fno plo j) (hcount : j + count = readBound (streamLen np)) :
    runEngine (count + 1) (s.dropOutput.reading fno plo c) = unpackRead s.dropOutput np := by
  induction count generalizing j c fno plo with
  | zero =>
    rcases unpackStep_reading hnp h with hend | ⟨-, -, -, -, -, hlt⟩
    · exact runEngine_unpackRead 0 rfl ((engineStep_unpack rfl h.ph).trans hend)
    · have := lt_readBound hlt fun hj => (h.legal hj).2
      omega
  | succ count ih =>
    rcases unpackStep_reading hnp h with hend | ⟨fno', plo', c', hnext, h', -⟩
    · exact runEngine_unpackRead _ rfl ((engineStep_unpack rfl h.ph).trans hend)
    · rw [runEngine_next _ rfl ((engineStep_unpack rfl h.ph).trans hnext)]
      exact ih h' (by omega)

/-- Settles O26: the loop from its start, with the bound of R171 as its fuel. -/
theorem unpackSteps : Obligations.UnpackSteps := by
  intro s np hs
  rw [runCommand, hs.start_unpack, hs.exec_unpack]
  exact runEngine_reading (s := s.started) (count := readBound (streamLen np)) hs.numpix
    (Cursor.create_readAt s.ch hs.inRange) (Nat.zero_add _)

end Sys2Proof.Machine
end

section
/-! PROOFS. The host's register moves, the `CMD` write and WAIT, on an idle engine and while a command runs (R180, R181,
R184 to R186, R226, R232). -/

namespace Sys2Proof.Machine

/-! ## The host's move -/

/-- One move of a running engine's host (R185). -/
theorem step_busy {s : State} {m : HostMove} {rest : List HostMove} (hrun : s.cursor ≠ none)
    (hscript : s.script = m :: rest) : step s = busyMove m rest s := by
  obtain ⟨c, hc⟩ := Option.ne_none_iff_exists'.1 hrun
  simp [step, machineStep, hscript, State.busy, hc]

/-- With no move left the engine steps by itself. -/
theorem step_noMove {s : State} (hscript : s.script = []) : step s = engineStep s := by
  simp [step, machineStep, hscript]

/-- An idle engine does nothing (R226). -/
theorem engineStep_idle {s : State} (hidle : s.cursor = none) : engineStep s = .next s := by
  simp [engineStep, hidle]

/-! ## Writes -/

/-- A write of a register other than `CMD` does what the register file says (R181). -/
theorem step_wr {s t : State} {reg : Nat} {v : Word} {rest : List HostMove} (hidle : s.cursor = none)
    (hscript : s.script = .wr reg v :: rest) (hreg : reg ≠ 0x00)
    (hwrite : { s with script := rest }.hostWrite v reg = some t) : step s = .next t := by
  rw [step_idle hidle hscript]
  simp only [idleMove, hostWr, if_neg hreg, hwrite]

/-- A write of register 0x00 is the `CMD` write (R184). -/
theorem step_wr_cmd {s : State} {v : Word} {rest : List HostMove} (hidle : s.cursor = none)
    (hscript : s.script = .wr 0x00 v :: rest) : step s = writeCmd v { s with script := rest } := by
  rw [step_idle hidle hscript]
  rfl

/-- Settles O39: the register file by number, and R185 while a command runs. -/
theorem hostRegisterWrite : Obligations.HostRegisterWrite := by
  intro s reg v rest hscript
  refine ⟨fun hidle => ⟨?_, ?_, ?_, ?_, ?cmd, fun hreg => ?readOnly⟩, fun hrun => step_busy hrun hscript⟩
  case cmd => rintro rfl; exact step_wr_cmd hidle hscript
  case readOnly => exact step_wr hidle hscript (by omega) (hostWrite_readOnly _ v hreg)
  all_goals rintro rfl; exact step_wr hidle hscript (by decide) rfl

/-- In the atomic view a command word runs its command whole (R184, R187). -/
theorem writeCmd_atomic {s : State} {w : Word} {i : Instr} (hw : decode w = .ok i) (hview : s.cfg.view = .atomic) :
    writeCmd w s = exec i s := by
  simp only [writeCmd, hw, hview]

/-- In the stepwise view a command word starts its command (R184, R187). -/
theorem writeCmd_stepwise {s : State} {w : Word} {i : Instr} (hw : decode w = .ok i)
    (hview : s.cfg.view = .stepwise) : writeCmd w s = start i s := by
  simp only [writeCmd, hw, hview]

/-- Settles O3: the move is a write of `CMD`, and `withFetchWord` places such a write in the atomic view. -/
theorem stepRunsCommand : Obligations.StepRunsCommand := by
  refine ⟨fun s w i rest hidle hscript hw => ⟨fun hview => ?_, fun hview => ?_⟩, fun s i => ?_⟩
  · rw [step_wr_cmd hidle hscript]
    exact writeCmd_atomic hw hview
  · rw [step_wr_cmd hidle hscript]
    exact writeCmd_stepwise hw hview
  · have hword : BitVec.ofNat 32 ((encode i).toNat % 2 ^ 32) = encode i := by
      rw [Nat.mod_eq_of_lt (encode i).isLt, BitVec.ofNat_toNat, BitVec.setWidth_eq]
    rw [State.withFetchWord, hword]
    exact (step_wr_cmd rfl rfl).trans (writeCmd_atomic (decode_encode i) rfl)

/-! ## Reads -/

/-- A read of a register that has a value records it and changes nothing else (R180). -/
theorem hostRd_of_hostRead {s : State} {reg : Nat} {v : Word}
    (h : s.hostRead (Config.freeWord s.fresh) reg = some v) : hostRd reg s = .next (s.answer (.word v) 1) := by
  simp only [hostRd, h]

/-- The registers of R37 are the numbers up to 0x0A. -/
theorem hostRead_known (s : State) (free : Word) {reg : Nat} (h : reg ≤ 0x0A) : ∃ v, s.hostRead free reg = some v := by
  interval_cases reg <;> exact ⟨_, rfl⟩

/-- A defined register is read as it stands (R180). -/
theorem Reg.hostValue_of_defined {r : Reg} (free : Word) (h : r.defined = true) : r.hostValue free = r.val := if_pos h

/-- Settles O41: the register file by number; a data register's reply is its value where it is defined. -/
theorem hostRegisterRead : Obligations.HostRegisterRead := by
  intro s reg rest hidle hscript hreg
  obtain ⟨v, hv⟩ := hostRead_known { s with script := rest } (Config.freeWord s.fresh) hreg
  refine ⟨v, s.fresh + 1, (step_idle hidle hscript).trans (hostRd_of_hostRead hv), ?_, ?_, ?_, ?_, ?_, ?_, ?_, ?_, ?_,
    ?_, ?_⟩
  iterate 3 rintro rfl; exact (Option.some.inj hv).symm
  all_goals rintro rfl hdef; exact (Option.some.inj hv).symm.trans (Reg.hostValue_of_defined _ hdef)

/-- Settles O44: R185 move by move; the two reads allowed are those of an idle engine. -/
theorem busyHostMoves : Obligations.BusyHostMoves := by
  intro s m rest hrun hscript
  rw [step_busy hrun hscript]
  refine ⟨?_, ?_, ?_, ?_, ?_, ?_, ?_, ?_⟩
  · rintro reg v rfl; rfl
  · rintro name a n rfl; rfl
  · rintro name a bs rfl; rfl
  · rintro reg rfl hstatus herrcode
    exact if_neg (not_or.2 ⟨hstatus, herrcode⟩)
  · rintro rfl; exact ⟨s.fresh + 1, rfl⟩
  · rintro rfl; exact ⟨s.fresh + 1, rfl⟩
  · rintro rfl; rfl
  · rintro rfl; rfl

/-- Settles O45: WAIT by `DONE`, and an engine that is idle with no move left. -/
theorem waitEnds : Obligations.WaitEnds := by
  refine fun s hidle => ⟨fun rest hscript hdone => ⟨s.fresh + 1, ?_⟩, fun rest hscript hdone => ?_, fun hscript => ?_⟩
  · rw [step_idle hidle hscript]
    exact if_pos hdone
  · rw [step_idle hidle hscript]
    exact if_neg (by simp [hdone])
  · rw [step_noMove hscript, engineStep_idle hidle]

end Sys2Proof.Machine
end

section
/-! PROOFS. The host's reads and writes of the byte spaces (R60, R182, R183). -/

namespace Sys2Proof.Machine

/-! ## Reads -/

/-- A defined bit is read as it stands, whatever stands in for the `undef` ones (R21). -/
theorem Space.hostByte_getLsbD {sp : Space} {a q : Nat} {v : Bool} (free : Byte) (h : sp.readBit a q = some v) :
    (sp.hostByte free a).getLsbD q = v := by
  unfold Space.readBit at h
  split_ifs at h with hknown
  simpa [Space.hostByte, hknown] using h

theorem Space.hostBytes_length (sp : Space) (k a n : Nat) : (sp.hostBytes k a n).length = n := by
  induction n generalizing k a with
  | zero => rfl
  | succ n ih => rw [Space.hostBytes, List.length_cons, ih]

/-- Byte `i` of a host read is that of cell `a + i` (R182). -/
theorem Space.hostBytes_getElem? (sp : Space) (k a : Nat) {n i : Nat} (hi : i < n) :
    (sp.hostBytes k a n)[i]? = some (sp.hostByte (Config.freeByte (k + i)) (a + i)) := by
  induction n generalizing k a i with
  | zero => omega
  | succ n ih =>
    cases i with
    | zero => rfl
    | succ i =>
      rw [Space.hostBytes, List.getElem?_cons_succ, ih _ _ (by omega), Nat.add_right_comm k, Nat.add_right_comm a]
      rfl

/-- Settles O42: the bytes of the reply cell by cell, or the fault before any is read. -/
theorem hostBufferRead : Obligations.HostBufferRead := by
  intro s name a n rest hidle hscript
  rw [step_idle hidle hscript]
  refine ⟨fun hrange => ?_, fun hrange => if_neg (Nat.not_le.2 hrange)⟩
  have hlen := (s.space name).hostBytes_length s.fresh a n
  refine ⟨(s.space name).hostBytes s.fresh a n, s.fresh + n, if_pos hrange, hlen, fun i b q v hb _ hv => ?_⟩
  obtain ⟨hi, -⟩ := List.getElem?_eq_some_iff.1 hb
  rw [Space.hostBytes_getElem? _ _ _ (hlen ▸ hi)] at hb
  obtain rfl := Option.some.inj hb
  exact Space.hostByte_getLsbD _ hv

/-! ## Writes -/

/-- A write of consecutive bytes keeps every bit of the other cells, `undef` ones included (R183). -/
theorem Space.readBit_writeBytes_other (sp : Space) {a x : Nat} {bs : List Byte} (q : Nat)
    (hx : x < a ∨ a + bs.length ≤ x) : (sp.writeBytes a bs).readBit x q = sp.readBit x q := by
  induction bs generalizing sp a with
  | nil => rfl
  | cons b bs ih =>
    rw [List.length_cons] at hx
    have hne : x ≠ a := by omega
    rw [Space.writeBytes, ih _ (by omega)]
    simp only [Space.readBit, Space.writeByte, Memory.read_write_other _ hne]

/-- Settles O43: the space named is written byte by byte, every other one kept, or nothing is written and it faults. -/
theorem hostBufferWrite : Obligations.HostBufferWrite := by
  intro s name a bs rest hidle hscript hwf
  rw [step_idle hidle hscript]
  refine ⟨fun hrange hname => ?_, fun hrange => if_neg (Nat.not_le.2 hrange)⟩
  have hspace := State.hostWriteBytes_space { s with script := rest } name
  have hnamed : ({ s with script := rest }.hostWriteBytes name a bs).space name = (s.space name).writeBytes a bs :=
    (hspace name a bs).trans (if_pos ⟨rfl, by rcases hname with rfl | rfl | rfl <;> decide⟩)
  refine ⟨_, if_pos hrange, State.hostWriteBytes_eq .., fun i hi => ?_, fun x q hx => ?_, fun other hne => ?_⟩
  · rw [hnamed, Space.readByte_writeBytes a _ bs hwf, if_pos (by omega), Nat.add_sub_cancel_left]
  · rw [hnamed, Space.readBit_writeBytes_other _ q hx]
  · exact (hspace other a bs).trans (if_neg fun h => hne h.1)

end Sys2Proof.Machine
end

section
/-! PROOFS. What the host reads while a command runs (R34, R184, R186). -/

namespace Sys2Proof.Machine

/-- While a command runs STATUS shows `BUSY` and `UPVALID` alone, and ERRCODE reads 0 (R34, R35, R186). -/
theorem State.FlagsOk.running_words {s : State} (hs : s.FlagsOk) (hrun : s.busy = true) :
    s.statusWord = (if s.upvalid = true then 9 else 1) ∧ s.errcodeWord = 0 := by
  obtain ⟨hdone, herr, hcode⟩ := (State.flagsOk_of_running hrun).1 hs
  refine ⟨?_, by rw [State.errcodeWord, hcode]⟩
  rw [State.statusWord, hrun, hdone, herr]
  cases s.upvalid <;> rfl

/-- The start of UNPACK clears `UPVALID`, that of the other commands keeps it (R151, R184). -/
theorem start_upvalid {i : Instr} {s t : State} (h : start i s = .next t) (hrun : t.cursor ≠ none) :
    t.upvalid = if i = .unpack then false else s.upvalid := by
  unfold start at h
  cases i with
  | cap =>
    obtain ⟨-, -, hbody⟩ := State.begin_next.1 h
    cases hbody
    rfl
  | pack =>
    obtain ⟨-, -, hbody⟩ := State.begin_next.1 h
    rcases packChecked_next hbody with ⟨e, -, rfl⟩ | ⟨d, n, p, np, -, -, -, -, -, -, hcreate⟩
    · exact absurd rfl hrun
    · cases hcreate
      rfl
  | unpack =>
    obtain ⟨-, -, hbody⟩ := State.begin_next.1 h
    obtain ⟨np, -, hcreate⟩ := State.withOperand_next.1 hbody
    cases hcreate
    rfl

/-- A step after which the command still runs keeps `UPVALID` (R166, R167). -/
theorem EngineResult.upvalid {s t : State} {c : Cursor} (h : EngineResult s c t) (hrun : t.cursor ≠ none) :
    t.upvalid = s.upvalid := by
  cases h with
  | capFailed | capDone | packDone | packOverflow | unpackExhausted => exact absurd rfl hrun
  | packWrote | packPassed => rfl
  | unpackTurn v =>
    rcases transitions_cases 7 (s.readNext c v) (c.readNext v) with ⟨c', heq⟩ | ⟨e, -, heq⟩ | ⟨c', -, heq⟩ <;>
      rw [heq] at hrun ⊢
    · rw [s.readNext_eq]
    · exact absurd rfl hrun
    · exact absurd rfl hrun

/-- What every step of the engine keeps holds where its run stops. -/
theorem runEngine_keeps {P : State → Prop}
    (hkept : ∀ {s t : State} {c : Cursor}, P s → s.cursor = some c → EngineResult s c t → P t) {fuel : Nat}
    {s t : State} (hs : P s) (h : runEngine fuel s = .next t) : P t := by
  induction fuel generalizing s with
  | zero => cases h; exact hs
  | succ fuel ih =>
    cases hc : s.cursor with
    | none =>
      rw [runEngine_idle _ hc] at h
      cases h
      exact hs
    | some c =>
      have hbusy := s.busy_iff.2 ⟨c, hc⟩
      cases hstep : engineStep s with
      | next s' =>
        rw [runEngine_next fuel hbusy hstep] at h
        exact ih (hkept hs hc (engineStep_result hc hstep)) h
      | fault f => simp [runEngine, hbusy, hstep] at h
      | refused r => simp [runEngine, hbusy, hstep] at h

/-- A state of a command that was started, or that has ended: the relations between the flags hold, and while the command runs
`UPVALID` is `up`. -/
def State.FlagsSince (up : Bool) (t : State) : Prop := t.FlagsOk ∧ (t.cursor ≠ none → t.upvalid = up)

theorem flagsSince_start {i : Instr} {s t : State} (h : start i s = .next t) :
    t.FlagsSince (if i = .unpack then false else s.upvalid) :=
  ⟨flagsOk_start (start_result h).2, start_upvalid h⟩

theorem flagsSince_engine {up : Bool} {s t : State} {c : Cursor} (hs : s.FlagsSince up) (hc : s.cursor = some c)
    (h : EngineResult s c t) : t.FlagsSince up :=
  ⟨flagsOk_engine hs.1 hc h, fun hrun => (h.upvalid hrun).trans (hs.2 (by simp [hc]))⟩

/-- Settles O46: the start sets the flags so, and every step after which the command still runs keeps them. -/
theorem busyStatus : Obligations.BusyStatus := by
  intro i s t fuel h hrun
  have hflags : t.FlagsSince (if i = .unpack then false else s.upvalid) := by
    unfold runCommand at h
    cases hstart : start i s with
    | next s' =>
      rw [hstart] at h
      exact runEngine_keeps flagsSince_engine (flagsSince_start hstart) h
    | fault f => rw [hstart] at h; cases h
    | refused r => rw [hstart] at h; cases h
  obtain ⟨hstatus, herrcode⟩ := hflags.1.running_words (Option.isSome_iff_ne_none.2 hrun)
  exact ⟨hstatus, herrcode, hflags.2 hrun⟩

end Sys2Proof.Machine
end

section
/-! PROOFS. How a command ends: what an ending leaves in the state (R204, R205), and the repetition of a command that failed
(R206). -/

namespace Sys2Proof.Machine

/-! ## The two endings -/

/-- The word the host reads in STATUS after a command: `DONE`, `ERR` if it failed, and `UPVALID` (R34, R204, R205). -/
theorem State.ended_statusWord (s : State) (e : Option ErrKind) :
    (s.ended e).statusWord =
      if e.isSome then (if s.upvalid = true then 14 else 6) else (if s.upvalid = true then 10 else 2) := by
  change (if false then 1#32 else 0#32) ||| (if true then 2#32 else 0#32) ||| (if e.isSome then 4#32 else 0#32) |||
    (if s.upvalid then 8#32 else 0#32) = _
  cases e.isSome <;> cases s.upvalid <;> rfl

/-- Settles O47: each ending is `ended` with its error kind, or with none. -/
theorem failAndComplete : Obligations.FailAndComplete :=
  ⟨fun s e => ⟨rfl, rfl, s.ended_statusWord (some e)⟩, fun s => ⟨rfl, rfl, s.ended_statusWord none⟩, fun _ _ => rfl⟩

/-! ## The error kind of an outcome -/

/-- The error kind with which a command ended; `none` where it completed or the model gives no next state. -/
def failure : Host.Outcome State Fault Refusal → Option ErrKind
  | .next t => t.errcode
  | .fault _ => none
  | .refused _ => none

@[simp] theorem failure_next (t : State) : failure (.next t) = t.errcode := rfl

theorem failure_eq_some {o : Host.Outcome State Fault Refusal} {e : ErrKind} :
    failure o = some e ↔ ∃ t, o = .next t ∧ t.errcode = some e := by
  cases o <;> simp [failure]

theorem failure_withOperand (s : State) (r : Reg) (k : Word → Host.Outcome State Fault Refusal) :
    failure (s.withOperand r k) = (r.operand s.cfg).bind fun v => failure (k v) := by
  unfold State.withOperand
  cases r.operand s.cfg <;> rfl

/-- The error kind of the two checks CAP and PACK make, in the order of R122, R131 and R132; `rest` is that of what follows. -/
def State.checkFailure (s : State) (rest : Word → Word → Option ErrKind) : Option ErrKind :=
  (s.pkFnlen.operand s.cfg).bind fun n =>
    if Config.fnMax < n.toNat then some .filenameTooLong
    else (s.pkDepth.operand s.cfg).bind fun d =>
      if d.toNat < 1 ∨ 8 < d.toNat then some .invalidBitDepth else rest n d

/-- CAP fails at its checks only (R122). -/
theorem failure_capCompute (s : State) : failure (capCompute s) = s.checkFailure fun _ _ => none := by
  simp only [capCompute, State.checkFailure, failure_withOperand, apply_ite failure, failure_next, State.capFail_errcode,
    State.complete_errcode, Option.bind_fun_none]

/-- After its checks PACK fails only for want of room: the contents of `CH` and of the input record decide between completion and
a refusal (R138, log 10). -/
theorem failure_packWrite (s : State) (d n p np : Word) :
    failure (packWrite s d n p np) = if packFits (streamLen np) d n p then none else some .capacityExceeded := by
  unfold packWrite
  split_ifs
  · cases packStream s d n p <;> rfl
  · rfl

/-- PACK fails at its checks or for want of room (R131, R132, R138). -/
theorem failure_packChecked (s : State) : failure (packChecked s (packWrite s)) = s.checkFailure fun n d =>
    (s.pkPlen.operand s.cfg).bind fun p => (s.numpix.operand s.cfg).bind fun np =>
      if packFits (streamLen np) d n p then none else some .capacityExceeded := by
  simp only [packChecked, State.checkFailure, failure_withOperand, apply_ite failure, failure_next, State.fail_errcode,
    failure_packWrite]

/-- UNPACK fails as the channel memory says (R168). -/
theorem failure_unpackRead_congr {s t : State} (np : Word) (hch : t.ch = s.ch) :
    failure (unpackRead t np) = failure (unpackRead s np) := by
  unfold unpackRead
  rw [hch]
  cases unpackStream s.ch (streamLen np) <;> rfl

/-! ## A failed command repeated -/

/-- A command that starts fails as its operands say, and UNPACK as the channel memory says too: its results, the output record,
the flags and the memory PACK overwrites have no part in it. -/
theorem failure_exec_congr {i : Instr} {s t : State} (hs : s.cursor = none) (ht : t.cursor = none)
    (hover : s.numpixOver = false) (hin : s.SameInput t) (hch : i = .unpack → t.ch = s.ch) :
    failure (exec i t) = failure (exec i s) := by
  obtain ⟨hcfg, hnumpix, hdepth, hfnlen, hplen, -⟩ := hin
  have hover' : t.numpixOver = false := by rwa [State.numpixOver, hnumpix, hcfg]
  have hcheck : t.started.checkFailure = s.started.checkFailure := by
    funext rest
    simp only [State.checkFailure, State.started_cfg, State.started_pkFnlen, State.started_pkDepth, hcfg, hfnlen, hdepth]
  cases i with
  | cap => rw [exec_cap_idle ht hover', exec_cap_idle hs hover, failure_capCompute, failure_capCompute, hcheck]
  | pack =>
    rw [exec_pack_idle ht hover', exec_pack_idle hs hover, failure_packChecked, failure_packChecked, hcheck]
    simp only [State.started_cfg, State.started_pkPlen, State.started_numpix, hcfg, hplen, hnumpix]
  | unpack =>
    have hread (np : Word) := failure_unpackRead_congr (s := s.started.dropOutput) (t := t.started.dropOutput) np (hch rfl)
    rw [exec_unpack_idle ht hover', exec_unpack_idle hs hover]
    simp only [failure_withOperand, State.started_cfg, State.started_numpix, hcfg, hnumpix, hread]

/-- Settles O31: a command leaves its operands as they were, and UNPACK the channel memory too. -/
theorem nonRetryable : Obligations.NonRetryable := by
  intro i s t e hexec herr
  obtain ⟨hidle, hresult⟩ := exec_result hexec
  obtain ⟨-, hover, -⟩ := exec_next hexec
  have hch : i = .unpack → t.ch = s.ch := fun hi => hresult.ch (by rw [hi]; decide)
  have hfail : failure (exec i s) = some e := failure_eq_some.2 ⟨t, hexec, herr⟩
  exact failure_eq_some.1 ((failure_exec_congr hidle hresult.idle hover hresult.sameInput hch).trans hfail)

end Sys2Proof.Machine
end

section
/-! PROOFS. The external reset, whether a command runs or not (R225, R227). -/

namespace Sys2Proof.Machine

/-- R225: the reset input does not look at `BUSY`. -/
theorem step_reset {s : State} {rest : List HostMove} (hscript : s.script = .reset :: rest) :
    step s = .next { s with script := rest }.hardReset := by
  by_cases hidle : s.cursor = none
  · rw [step_idle hidle hscript, idleMove]
  · rw [step_busy hidle hscript, busyMove]

/-- Settles O51: the step is the hard reset, idle or running, and that keeps the parameters and the host's side only. -/
theorem resetAnyTime : Obligations.ResetAnyTime :=
  fun _ _ hscript => step_reset hscript

end Sys2Proof.Machine
end
